-- ==== Sys2Proof/Word.lean ====
section
/-! DEFINITION. The fixed sizes of 00_scope.md R7 and R10 as types.
A byte sequence of FIXED length that the host sees as registers is held as the bit vector the registers make up:
byte `k` of the sequence is bits `[8k+7:8k]` (the packing of 20_memory.md R81). A sequence of varying length is a list
of bytes, index 0 first (R11). -/

namespace Sys2Proof

abbrev Byte := BitVec 8
/-- One 32-bit bus word (20_memory.md R82). -/
abbrev Word := BitVec 32
/-- A 64-bit register pair, or the counter of the block port (R12, 45_collaborators.md R241). -/
abbrev DWord := BitVec 64
/-- A key: exactly 32 bytes (R7). -/
abbrev Key := BitVec 256
/-- A nonce: exactly 12 bytes (R7). -/
abbrev Nonce := BitVec 96
/-- A tag: exactly 16 bytes (R7). -/
abbrev Tag := BitVec 128
/-- A keystream block: 64 bytes (R7). -/
abbrev KeystreamBlock := BitVec 512

end Sys2Proof
end

