-- ==== Sys2Proof/Syntax.lean ====
section
/-! DEFINITION. The command set AEAD-CMD version 1 (30_encoding.md R121): one constructor a row of
spec/opcode_table.json. No command has an operand in its word (R126). -/

namespace Sys2Proof

/-- The four commands. -/
inductive Instr where
  | encrypt    -- 0x1, 42_encrypt.md R190
  | decrypt    -- 0x2, 43_decrypt.md R210
  | pad        -- 0x3, 40_pad.md R154
  | deriveKey  -- 0x4, 41_keysched.md R171
deriving DecidableEq, Repr

/-- Why a CMD word is illegal (30_encoding.md R122). -/
inductive Illegal where
  | reservedBits  -- w[31:4] is not zero
  | badOpcode     -- w[3:0] is 0x0 or in 0x5..0xF
deriving DecidableEq, Repr

/-- What the decoder reads from a CMD word: a command, or the name of what is wrong with the word. -/
inductive Decoded where
  | command (i : Instr)
  | illegal (why : Illegal)
deriving DecidableEq, Repr

end Sys2Proof
end

