-- ==== Sys2Proof/Decode.lean ====
section
/-! DEFINITION. The decoder of a CMD word, total, rejecting by name, and the encoder (30_encoding.md R120 to R123). -/

namespace Sys2Proof

/-- OPCODE, bits 3:0 (R120). -/
def opcodeOf (w : Word) : BitVec 4 := w.extractLsb' 0 4

/-- RSV, bits 31:4 (R120). -/
def reservedOf (w : Word) : BitVec 28 := w.extractLsb' 4 28

/-- The opcode map of R121; every other opcode is reserved (R122). -/
def opcodeMap (op : BitVec 4) : Decoded :=
  if op = 0x1#4 then .command .encrypt
  else if op = 0x2#4 then .command .decrypt
  else if op = 0x3#4 then .command .pad
  else if op = 0x4#4 then .command .deriveKey
  else .illegal .badOpcode

/-- The decoder: the reserved bits are looked at before the opcode (R123). -/
def decode (w : Word) : Decoded :=
  if reservedOf w ≠ 0#28 then .illegal .reservedBits else opcodeMap (opcodeOf w)

/-- The CMD word of a command (the last column of R121's table). -/
def encode : Instr → Word
  | .encrypt   => 0x00000001#32
  | .decrypt   => 0x00000002#32
  | .pad       => 0x00000003#32
  | .deriveKey => 0x00000004#32

/-- What the decoder reads from `nbits` bits `w`: a command is always exactly one 32-bit word (R120). -/
def decodeTableWord (nbits w : Nat) : Option Instr :=
  if w % 2 ^ nbits < 2 ^ 32 then
    match decode (BitVec.ofNat 32 (w % 2 ^ nbits)) with
    | .command i => some i
    | .illegal _ => none
  else none

end Sys2Proof
end

