-- ==== Sys2Proof/Config.lean ====
section
/-! DEFINITION. The implementation parameters of 00_scope.md R8. A model takes each as an argument: every definition of
the machine that depends on one takes a `Config`, and `Config.hw` is THE hardware's configuration, every parameter of
it an opaque constant within the limits R8 sets (log entry 4). -/

namespace Sys2Proof

/-- The parameters of 00_scope.md R8, in its table's order. `poAad n off` and `poIn n off` are the draws PO_AAD and
PO_IN: the byte at offset `off` after the `n`-th pulse of the reset input (70_reset_and_hazards.md R301; log entry 5). -/
structure Config where
  aadCap       : Nat
  dataCap      : Nat
  outCap       : Nat
  scMaxCounter : Nat
  scBlock      : Key → DWord → Nonce → KeystreamBlock
  maCompute    : List Byte → Key → Tag
  base         : Nat
  poAad        : Nat → Nat → Byte
  poIn         : Nat → Nat → Byte

/-- Free value: AAD_CAP is `16 * (1 + this mod 2^16)`, so every allowed capacity and no other. -/
opaque Config.freeAadUnits : Nat
/-- Free value: DATA_CAP, as `freeAadUnits`. -/
opaque Config.freeDataUnits : Nat
/-- Free value: OUT_CAP is the least allowed capacity plus 16 times this, within the limit. -/
opaque Config.freeOutUnits : Nat
/-- Free value: SC_MAX_COUNTER is `1 + this mod (2^64 - 1)`. -/
opaque Config.freeMaxCounter : Nat
/-- Free value: BASE is `2^23 *` this. -/
opaque Config.freeBaseUnits : Nat
/-- Free value: SC_BLOCK, total and pure (45_collaborators.md R241). -/
opaque Config.freeScBlock : Key → DWord → Nonce → KeystreamBlock
/-- Free value: MA_COMPUTE, total and pure (45_collaborators.md R245). -/
opaque Config.freeMaCompute : List Byte → Key → Tag
/-- Free value: the draws PO_AAD (70_reset_and_hazards.md R301). -/
opaque Config.freePoAad : Nat → Nat → Byte
/-- Free value: the draws PO_IN (70_reset_and_hazards.md R301). -/
opaque Config.freePoIn : Nat → Nat → Byte

/-- A capacity of AAD_MEM or IN_MEM: a multiple of 16 from 16 to 2^20 (R8). -/
def Config.inputCap (units : Nat) : Nat := 16 * (1 + units % 2 ^ 16)

/-- A capacity of OUT_MEM: a multiple of 16 from `max(DATA_CAP, 32)` to 2^22 (R8). -/
def Config.outputCap (dataCap units : Nat) : Nat :=
  max dataCap 32 + 16 * (units % ((2 ^ 22 - max dataCap 32) / 16 + 1))

/-- The hardware's configuration: every parameter free within R8's limits. -/
def Config.hw : Config where
  aadCap       := Config.inputCap Config.freeAadUnits
  dataCap      := Config.inputCap Config.freeDataUnits
  outCap       := Config.outputCap (Config.inputCap Config.freeDataUnits) Config.freeOutUnits
  scMaxCounter := 1 + Config.freeMaxCounter % (2 ^ 64 - 1)
  scBlock      := Config.freeScBlock
  maCompute    := Config.freeMaCompute
  base         := 2 ^ 23 * Config.freeBaseUnits
  poAad        := Config.freePoAad
  poIn         := Config.freePoIn

end Sys2Proof
end

