-- ==== Sys2Proof/Machine/Bytes.lean ====
section
/-! DEFINITION. Byte and word positions inside a register's bits, all little-endian (20_memory.md R81), and the padding
arithmetic of 40_pad.md R150 to R152. -/

namespace Sys2Proof.Machine

/-- Byte `k` of a byte sequence held as a bit vector: bits `[8k+7:8k]` (R81). -/
def byteAt {n : Nat} (v : BitVec n) (k : Nat) : Byte := v.extractLsb' (8 * k) 8

/-- The first `len` bytes of a byte sequence held as a bit vector, byte 0 first. -/
def bytesOf {n : Nat} (v : BitVec n) (len : Nat) : List Byte := (List.range len).map (byteAt v)

/-- The natural number whose little-endian byte encoding is the list (LE of 45_collaborators.md R255). -/
def leValue : List Byte → Nat
  | [] => 0
  | b :: bs => b.toNat + 256 * leValue bs

/-- Word `i` of a register group: bits `[32i+31:32i]`. -/
def wordAt {n : Nat} (v : BitVec n) (i : Nat) : Word := v.extractLsb' (32 * i) 32

/-- The register group with word `i` replaced by `w`. -/
def setWordAt {n : Nat} (v : BitVec n) (i : Nat) (w : Word) : BitVec n :=
  (v &&& ~~~((BitVec.allOnes 32).setWidth n <<< (32 * i))) ||| w.setWidth n <<< (32 * i)

/-- `zeros(n)` (00_scope.md R11). -/
def zeros (n : Nat) : List Byte := List.replicate n 0#8

/-- `ru16(n) = 16 * ceil(n / 16)` (40_pad.md R150). -/
def ru16 (n : Nat) : Nat := 16 * ((n + 15) / 16)

/-- `le64(n)`: byte `i` is `(n div 2^(8i)) mod 256` (40_pad.md R151). -/
def le64 (n : Nat) : List Byte := (List.range 8).map fun i => BitVec.ofNat 8 (n / 2 ^ (8 * i))

/-- `pad(a, d)`, the PaddedMessage (40_pad.md R152; the AAD-first order, 90_conflicts.md C1). -/
def padMessage (a d : List Byte) : List Byte :=
  a ++ zeros (ru16 a.length - a.length) ++ d ++ zeros (ru16 d.length - d.length) ++ le64 a.length ++ le64 d.length

end Sys2Proof.Machine
end

