-- ==== Sys2Proof/Machine/Collaborators.lean ====
section
/-! DEFINITION. The stream cipher's apply port (45_collaborators.md R242 to R244), from the block port's function SC_BLOCK
(R241). The block port and the authenticator port (R245) are the configuration's functions `scBlock` and `maCompute`
themselves; all three are pure (R246). -/

namespace Sys2Proof.Machine

/-- `ceil(len/64)`: how many keystream blocks `len` bytes take (R242). -/
def blocksFor (len : Nat) : Nat := (len + 63) / 64

/-- `K`: the keystream of `n` blocks from counter `c0` on (R242). -/
def keystream (c : Config) (k : Key) (nonce : Nonce) (c0 : DWord) (n : Nat) : List Byte :=
  (List.range n).flatMap fun j => bytesOf (c.scBlock k (c0 + BitVec.ofNat 64 j) nonce) 64

/-- When the apply port reports StreamCipherError (R243, R244). -/
def applyFails (c : Config) (c0 : DWord) (len : Nat) : Bool :=
  decide (0 < len) && decide (c.scMaxCounter < c0.toNat + blocksFor len - 1)

/-- `SC_APPLY(k, n, c0, d)`; `none` is StreamCipherError (R242, R243). -/
def scApply (c : Config) (k : Key) (nonce : Nonce) (c0 : DWord) (d : List Byte) : Option (List Byte) :=
  if applyFails c c0 d.length then none
  else some (List.zipWith (· ^^^ ·) d (keystream c k nonce c0 (blocksFor d.length)))

end Sys2Proof.Machine
end

