-- ==== Sys2Proof/Machine/Compare.lean ====
section
/-! DEFINITION. The constant-time tag comparator (44_tag_comparator.md R230): all 16 positions enter the result. -/

namespace Sys2Proof.Machine

/-- `acc`: the OR of the 16 byte differences. -/
def tagDifference (x y : Tag) : Byte :=
  (List.range 16).foldl (fun acc i => acc ||| (byteAt x i ^^^ byteAt y i)) 0#8

/-- `CT_EQ16(x, y) = (acc == 0)`. -/
def ctEq16 (x y : Tag) : Bool := tagDifference x y == 0#8

end Sys2Proof.Machine
end

