-- ==== Sys2Proof/Machine/State.lean ====
section
/-! DEFINITION. The machine's state as plain data: the record of 10_state.md R30, and beside it what the model keeps of
the outside world; the outcomes a step can stop with; the state after power-on reset (R76, R300). -/

namespace Sys2Proof.Machine

/-- The sequencer's phases (10_state.md R60). -/
inductive Phase where
  | idle | check | keygen | cipher | mac | compare | padout | commit
deriving DecidableEq, Repr

/-- The error codes of 60_exceptions.md R270; the reserved codes 6 to 15 are never produced (log entry 13). -/
inductive Err where
  | ok | encryptionFailure | authenticationFailure | decryptionFailure | illegalCommand | lengthError
deriving DecidableEq, Repr

/-- The cause codes of 60_exceptions.md R271; the reserved codes 8 to 15 are never produced (log entry 13). -/
inductive Cause where
  | none | streamLimit | tagMismatch | aadTooLong | dataTooLong | padTooLong | badOpcode | reservedBits
deriving DecidableEq, Repr

/-- The outcome an `Apply` event records (10_state.md R67). -/
inductive ApplyOutcome where
  | ok | streamCipherError
deriving DecidableEq, Repr

/-- The events of the log (10_state.md R67). -/
inductive Event where
  | accept (w : Word)
  | block (k : Key) (c : DWord) (n : Nonce)
  | apply (k : Key) (n : Nonce) (c0 : DWord) (d : List Byte) (outcome : ApplyOutcome)
  | mac (m : List Byte) (k : Key)
  | commit (e : Err) (c : Cause)
  | abort
deriving DecidableEq, Repr

/-- One turn of the interleaving (00_scope.md R13): a bus access of the host at a platform address, a turn left to the
sequencer, or a pulse of the reset input (70_reset_and_hazards.md R300). -/
inductive Turn where
  | read (addr : Nat)
  | write (addr : Nat) (v : Word)
  | sequencer
  | powerOnReset
deriving DecidableEq, Repr

/-- What the bus last returned to the host (20_memory.md R85, R95): nothing yet, a normal response to a write, or the
data of a read. -/
inductive Response where
  | none
  | written
  | data (v : Word)
deriving DecidableEq, Repr

/-- A byte buffer: the bytes that differ from what an unlisted offset reads as, offsets strictly rising
(`Memory.wf`). -/
abbrev Memory := List Host.Cell

/-- The record of 10_state.md R30 in its order, then the model's own three fields: the turns to come, the bus's last
answer, and how many pulses of the reset input this run has seen (log entries 1, 12, 5). -/
structure State where
  irqEn    : Bool
  busy     : Bool
  done     : Bool
  overrun  : Bool
  err      : Err
  cause    : Cause
  lastOpc  : BitVec 4
  aadLen   : DWord
  dataLen  : DWord
  outLen   : DWord
  key      : Key
  nonce    : Nonce
  tagIn    : Tag
  tagOut   : Tag
  aadMem   : Memory
  inMem    : Memory
  outMem   : Memory
  phase    : Phase
  cmdw     : Word
  result   : Err × Cause
  mackey   : Key
  expTag   : Tag
  stage    : Memory
  stageLen : Nat
  stageTag : Tag
  log      : List Event
  script   : List Turn
  response : Response
  powerOns : Nat
deriving DecidableEq, Repr

/-- Why the machine stops. -/
inductive Fault where
  /-- Raised by a host access that 20_memory.md R84 calls a bus error (misaligned, unassigned, beyond an implemented
  range); a host model treats it as a fault of the host's program (93 I3). Safe: the block itself would go on. -/
  | busError
  /-- Raised by a host access to an address outside the block's aperture (20_memory.md R80): no access to this block.
  Safe: the model stops. -/
  | outsideAperture
  /-- Raised by a sequencer step in a phase that 10_state.md R68 says the command does not reach: the spec gives it no
  effect. Safe: the model stops. -/
  | phaseNotReached
deriving DecidableEq, Repr

/-- Why a step has no meaning. -/
inductive Refusal where
  /-- Raised by an arm of `exec` whose instruction has no meaning yet; no arm is one. Safe: the model stops. -/
  | notModelled (mnemonic : String)
deriving DecidableEq, Repr

/-- The state after power-on reset (10_state.md R76, 70_reset_and_hazards.md R300, R301): a buffer that lists nothing
reads as its unlisted bytes, the draws for AAD_MEM and IN_MEM and zero for OUT_MEM and the stage. -/
def State.reset : State where
  irqEn    := false
  busy     := false
  done     := false
  overrun  := false
  err      := .ok
  cause    := .none
  lastOpc  := 0#4
  aadLen   := 0#64
  dataLen  := 0#64
  outLen   := 0#64
  key      := 0#256
  nonce    := 0#96
  tagIn    := 0#128
  tagOut   := 0#128
  aadMem   := []
  inMem    := []
  outMem   := []
  phase    := .idle
  cmdw     := 0#32
  result   := (.ok, .none)
  mackey   := 0#256
  expTag   := 0#128
  stage    := []
  stageLen := 0
  stageTag := 0#128
  log      := []
  script   := []
  response := .none
  powerOns := 0

end Sys2Proof.Machine
end

