-- ==== Sys2Proof/Machine/Flags.lean ====
section
/-! DEFINITION. The status flags and codes as the host sees them (10_state.md R34 to R50, R70, R74; 60_exceptions.md R270,
R271, R274). -/

namespace Sys2Proof.Machine

/-- The 4-bit ERR code (60_exceptions.md R270). -/
def errCode : Err → BitVec 4
  | .ok                    => 0#4
  | .encryptionFailure     => 1#4
  | .authenticationFailure => 2#4
  | .decryptionFailure     => 3#4
  | .illegalCommand        => 4#4
  | .lengthError           => 5#4

/-- The 4-bit CAUSE code (60_exceptions.md R271). -/
def causeCode : Cause → BitVec 4
  | .none         => 0#4
  | .streamLimit  => 1#4
  | .tagMismatch  => 2#4
  | .aadTooLong   => 3#4
  | .dataTooLong  => 4#4
  | .padTooLong   => 5#4
  | .badOpcode    => 6#4
  | .reservedBits => 7#4

/-- The column "with ERR" of R271's table. -/
def causeFits : Err → Cause → Bool
  | .ok, .none => true
  | .encryptionFailure, .streamLimit => true
  | .decryptionFailure, .streamLimit => true
  | .authenticationFailure, .tagMismatch => true
  | .lengthError, .aadTooLong => true
  | .lengthError, .dataTooLong => true
  | .lengthError, .padTooLong => true
  | .illegalCommand, .badOpcode => true
  | .illegalCommand, .reservedBits => true
  | _, _ => false

/-- `zext_32` of one bit. -/
def bitWord (b : Bool) : Word := (BitVec.ofBool b).setWidth 32

/-- A read of CTRL: `zext_32(irq_en)`; bits 31:1 read as 0 (10_state.md R34 to R36). -/
def ctrlWord (s : State) : Word := bitWord s.irqEn

/-- A read of STATUS (10_state.md R50). -/
def statusWord (s : State) : Word :=
  bitWord s.busy ||| bitWord s.done <<< 1 ||| bitWord s.overrun <<< 2
    ||| (errCode s.err).setWidth 32 <<< 4 ||| (causeCode s.cause).setWidth 32 <<< 8 ||| s.lastOpc.setWidth 32 <<< 12

/-- A host write of `w` to STATUS: the write-one-to-clear bits (10_state.md R50). -/
def statusWrite (w : Word) (s : State) : State :=
  { s with done := s.done && !w.getLsbD 1, overrun := s.overrun && !w.getLsbD 2 }

/-- The level interrupt output: `irq_en AND done` (10_state.md R74, 60_exceptions.md R274). -/
def irq (s : State) : Bool := s.irqEn && s.done

end Sys2Proof.Machine
end

