-- ==== Sys2Proof/Machine/Memory.lean ====
section
/-! DEFINITION. The byte buffers (10_state.md R65, R71 to R73) in one canonical form: offsets strictly rising, and no
entry equal to what an unlisted offset reads as. `d` is that function of the offset. -/

namespace Sys2Proof.Machine

/-- Strictly rising offsets, none below `lo`. -/
def Memory.risingFrom (lo : Nat) : Memory → Bool
  | [] => true
  | (a, _) :: m => decide (lo ≤ a) && Memory.risingFrom (a + 1) m

/-- The canonical form. -/
def Memory.wf (d : Nat → Byte) (m : Memory) : Bool :=
  Memory.risingFrom 0 m && m.all fun x => x.2 != d x.1

/-- Every listed offset is below `cap`. -/
def Memory.below (cap : Nat) (m : Memory) : Bool := m.all fun x => decide (x.1 < cap)

/-- One byte. -/
def Memory.read (d : Nat → Byte) : Memory → Nat → Byte
  | [], a => d a
  | (k, b) :: m, a => if k = a then b else Memory.read d m a

/-- The cells of the bytes `bs` from offset `off` on, those that differ from the unlisted byte. -/
def Memory.cells (d : Nat → Byte) : Nat → List Byte → Memory
  | _, [] => []
  | off, b :: bs =>
    if b = d off then Memory.cells d (off + 1) bs else (off, b) :: Memory.cells d (off + 1) bs

/-- `MemWrite(BUF, off, len(bs), bs)` (00_scope.md R12). -/
def Memory.writeBytes (d : Nat → Byte) (m : Memory) (off : Nat) (bs : List Byte) : Memory :=
  m.filter (fun x => decide (x.1 < off)) ++ Memory.cells d off bs
    ++ m.filter (fun x => decide (off + bs.length ≤ x.1))

/-- `MemRead(BUF, off, n)` (00_scope.md R12). -/
def Memory.readBytes (d : Nat → Byte) (m : Memory) (off n : Nat) : List Byte :=
  (List.range n).map fun i => Memory.read d m (off + i)

/-- An unlisted byte of AAD_MEM: the draw PO_AAD of the last power-on (70_reset_and_hazards.md R301). -/
def aadUnlisted (c : Config) (s : State) : Nat → Byte := c.poAad s.powerOns

/-- An unlisted byte of IN_MEM: the draw PO_IN of the last power-on (R301). -/
def inUnlisted (c : Config) (s : State) : Nat → Byte := c.poIn s.powerOns

/-- An unlisted byte of OUT_MEM or of the stage: zero (10_state.md R73, R76). -/
def zeroUnlisted : Nat → Byte := fun _ => 0#8

end Sys2Proof.Machine
end

