-- ==== Sys2Proof/Machine/Operands.lean ====
section
/-! DEFINITION. The operands of a command, the primitives of 20_memory.md R94 (30_encoding.md R126). KEYB, NONCEB and TAGB
are the fields `key`, `nonce` and `tagIn` themselves. -/

namespace Sys2Proof.Machine

/-- AAD_LEN as a natural number (10_state.md R51). -/
def aadLength (s : State) : Nat := s.aadLen.toNat

/-- DATA_LEN as a natural number (10_state.md R52). -/
def dataLength (s : State) : Nat := s.dataLen.toNat

/-- AAD = MemRead(AAD_MEM, 0, AAD_LEN). -/
def aadOperand (c : Config) (s : State) : List Byte :=
  Memory.readBytes (aadUnlisted c s) s.aadMem 0 (aadLength s)

/-- DATA = MemRead(IN_MEM, 0, DATA_LEN). -/
def dataOperand (c : Config) (s : State) : List Byte :=
  Memory.readBytes (inUnlisted c s) s.inMem 0 (dataLength s)

/-- `S.stage[0..n)`. -/
def stageBytes (s : State) (n : Nat) : List Byte := Memory.readBytes zeroUnlisted s.stage 0 n

/-- The length of the padded message PAD would put out: `ru16(AAD_LEN) + ru16(DATA_LEN) + 16` (30_encoding.md R123). -/
def padLength (s : State) : Nat := ru16 (aadLength s) + ru16 (dataLength s) + 16

end Sys2Proof.Machine
end

