-- ==== Sys2Proof/Machine/Ops.lean ====
section
/-! DEFINITION. The operations the commands share: accept and commit, the error entry `fail`, the two resets, and the
sequencer's phases (10_state.md R41, R66; 00_scope.md R12; 30_encoding.md R123; 41_keysched.md R170; 42_encrypt.md R191,
R192; 43_decrypt.md R211; 40_pad.md R154). Where a phase is shared by commands that go on differently, its operation
leaves the next phase to the command. -/

namespace Sys2Proof.Machine

/-- What a step answers. -/
abbrev Result := Host.Outcome State Fault Refusal

/-- `log(ev)`: append an event (10_state.md R67). -/
def logEvent (e : Event) (s : State) : State := { s with log := s.log ++ [e] }

/-- `phase <- P` (00_scope.md R12). -/
def goTo (p : Phase) (s : State) : State := { s with phase := p }

/-- The bus's answer to the host (log entry 12). -/
def respond (r : Response) (s : State) : State := { s with response := r }

/-- The turns to come (log entry 1). -/
def setScript (l : List Turn) (s : State) : State := { s with script := l }

/-- `S.stage_tag <- t`. -/
def setStageTag (t : Tag) (s : State) : State := { s with stageTag := t }

/-- `S.exp_tag <- t`. -/
def setExpTag (t : Tag) (s : State) : State := { s with expTag := t }

/-- THE ERROR ENTRY, `fail(ERR, CAUSE)` (00_scope.md R12, 60_exceptions.md R277): the result becomes (ERR, CAUSE) and the
command goes to COMMIT. There is no trap, vector or saved state. -/
def fail (e : Err) (c : Cause) (s : State) : State := { s with result := (e, c), phase := .commit }

/-- Accept of the CMD word `w` (10_state.md R41). -/
def accept (w : Word) (s : State) : State :=
  { s with
    busy := true, done := false, err := .ok, cause := .none, lastOpc := opcodeOf w
    outMem := [], outLen := 0#64, tagOut := 0#128
    cmdw := w, result := (.ok, .none)
    log := s.log ++ [.accept w], phase := .check }

/-- A host write to CMD: accept when idle (10_state.md R41), overrun when BUSY = 1 (R42). -/
def cmdWrite (w : Word) (s : State) : State :=
  if s.busy then { s with overrun := true } else accept w s

/-- The outputs a commit makes visible on success (10_state.md R66). -/
def publish (s : State) : State :=
  { s with
    outMem := Memory.writeBytes zeroUnlisted s.outMem 0 (stageBytes s s.stageLen)
    outLen := BitVec.ofNat 64 s.stageLen
    tagOut := s.stageTag }

/-- The rest of the commit: status, clearing of the hidden state, the event, back to IDLE (10_state.md R66). -/
def settle (e : Err) (c : Cause) (s : State) : State :=
  { s with
    err := e, cause := c, busy := false, done := true
    mackey := 0#256, expTag := 0#128, stage := [], stageLen := 0, stageTag := 0#128
    cmdw := 0#32, result := (.ok, .none)
    log := s.log ++ [.commit e c], phase := .idle }

/-- The step of phase COMMIT (10_state.md R66). -/
def commit (s : State) : State :=
  match s.result with
  | (.ok, c) => settle .ok c (publish s)
  | (e, c)   => settle e c s

/-- Soft reset (70_reset_and_hazards.md R302): every field of 10_state.md R30 takes its reset value but AAD_MEM, IN_MEM and
the log; a running command is aborted without a commit. The model's own fields stay. -/
def softReset (s : State) : State :=
  { State.reset with
    aadMem := s.aadMem, inMem := s.inMem
    log := if s.busy then s.log ++ [.abort] else s.log
    script := s.script, response := s.response, powerOns := s.powerOns }

/-- A pulse of the reset input (70_reset_and_hazards.md R300): every field takes its reset value, with draws of its own
(R301, log entry 5); the turns to come are the outside world's and stay. -/
def powerOnReset (s : State) : State :=
  { State.reset with script := s.script, powerOns := s.powerOns + 1 }

/-- A host write to CTRL (10_state.md R34 to R36). -/
def ctrlWrite (w : Word) (s : State) : State :=
  if w.getLsbD 1 then softReset s else { s with irqEn := w.getLsbD 0 }

/-- The length checks of phase CHECK for ENCRYPT, DECRYPT and PAD (30_encoding.md R123): `ok` goes on. -/
def checkLengths (c : Config) (ok : State → State) (s : State) : State :=
  if c.aadCap < aadLength s then fail .lengthError .aadTooLong s
  else if c.dataCap < dataLength s then fail .lengthError .dataTooLong s
  else ok s

/-- The check on the output's length, PAD only (30_encoding.md R123). -/
def checkPadLength (c : Config) (s : State) : State :=
  if c.outCap < padLength s then fail .lengthError .padTooLong s else goTo .padout s

/-- The block port's transaction of phase KEYGEN and the MAC key it gives (41_keysched.md R170): the first 32 bytes of the
block at counter 0. -/
def keygen (c : Config) (s : State) : State :=
  logEvent (.block s.key 0#64 s.nonce) { s with mackey := (c.scBlock s.key 0#64 s.nonce).extractLsb' 0 256 }

/-- `S.stage[0..len(bs)) <- bs; S.stage_len <- len(bs)`. -/
def putStage (bs : List Byte) (s : State) : State :=
  { s with stage := Memory.writeBytes zeroUnlisted s.stage 0 bs, stageLen := bs.length }

/-- The step of phase CIPHER (42_encrypt.md R191): a StreamCipherError becomes `onError`, with nothing staged; otherwise
the transformed bytes are staged and the command goes on with `next`. -/
def cipher (c : Config) (onError : Err) (next : State → State) (s : State) : State :=
  match scApply c s.key s.nonce 1#64 (dataOperand c s) with
  | none   => fail onError .streamLimit (logEvent (.apply s.key s.nonce 1#64 (dataOperand c s) .streamCipherError) s)
  | some r => next (putStage r (logEvent (.apply s.key s.nonce 1#64 (dataOperand c s) .ok) s))

/-- The message the authenticator signs over the ciphertext `ct` (42_encrypt.md R192): AAD first. -/
def macMessage (c : Config) (ct : List Byte) (s : State) : List Byte := padMessage (aadOperand c s) ct

/-- The event of the authenticator port's transaction over `ct` (42_encrypt.md R192). -/
def macLogged (c : Config) (ct : List Byte) (s : State) : State := logEvent (.mac (macMessage c ct s) s.mackey) s

/-- The tag the authenticator port returns over `ct` (42_encrypt.md R192). -/
def macTag (c : Config) (ct : List Byte) (s : State) : Tag := c.maCompute (macMessage c ct s) s.mackey

/-- The step of phase COMPARE (43_decrypt.md R211). -/
def compareTags (s : State) : State :=
  if ctEq16 s.expTag s.tagIn then goTo .cipher s else fail .authenticationFailure .tagMismatch s

/-- The step of phase PADOUT (40_pad.md R154). -/
def padOut (c : Config) (s : State) : State :=
  goTo .commit (setStageTag 0#128 (putStage (padMessage (aadOperand c s) (dataOperand c s)) s))

end Sys2Proof.Machine
end

