-- ==== Sys2Proof/Machine/Decrypt.lean ====
section
/-! DEFINITION. DECRYPT (43_decrypt.md R210): CHECK, KEYGEN, MAC, COMPARE, CIPHER only if the tags are equal, COMMIT. -/

namespace Sys2Proof.Machine

/-- DECRYPT's MAC phase: the expected tag over the ciphertext the host supplied (42_encrypt.md R192). -/
def decryptMac (c : Config) (s : State) : State :=
  goTo .compare (setExpTag (macTag c (dataOperand c s) s) (macLogged c (dataOperand c s) s))

/-- What follows a successful CIPHER phase of DECRYPT (42_encrypt.md R191). -/
def decryptStaged (s : State) : State := goTo .commit (setStageTag 0#128 s)

/-- The next step of DECRYPT in configuration `c` (see `encryptOn`). -/
def decryptOn (c : Config) (s : State) : Result :=
  match s.phase with
  | .idle    => .next (accept (encode .decrypt) s)
  | .check   => .next (checkLengths c (goTo .keygen) s)
  | .keygen  => .next (goTo .mac (keygen c s))
  | .mac     => .next (decryptMac c s)
  | .compare => .next (compareTags s)
  | .cipher  => .next (cipher c .decryptionFailure decryptStaged s)
  | .commit  => .next (commit s)
  | .padout  => .fault .phaseNotReached

/-- DECRYPT on the hardware. -/
def execDecrypt (s : State) : Result := decryptOn Config.hw s

end Sys2Proof.Machine
end

