-- ==== Sys2Proof/Machine/DeriveKey.lean ====
section
/-! DEFINITION. DERIVE_KEY (41_keysched.md R171): CHECK, KEYGEN, COMMIT. It reads neither length (30_encoding.md R123). -/

namespace Sys2Proof.Machine

/-- DERIVE_KEY's KEYGEN phase: the MAC key is staged (41_keysched.md R170). -/
def deriveKeyStaged (s : State) : State :=
  goTo .commit (setStageTag 0#128 (putStage (bytesOf s.mackey 32) s))

/-- The next step of DERIVE_KEY in configuration `c` (see `encryptOn`). -/
def deriveKeyOn (c : Config) (s : State) : Result :=
  match s.phase with
  | .idle    => .next (accept (encode .deriveKey) s)
  | .check   => .next (goTo .keygen s)
  | .keygen  => .next (deriveKeyStaged (keygen c s))
  | .commit  => .next (commit s)
  | .cipher  => .fault .phaseNotReached
  | .mac     => .fault .phaseNotReached
  | .compare => .fault .phaseNotReached
  | .padout  => .fault .phaseNotReached

/-- DERIVE_KEY on the hardware. -/
def execDeriveKey (s : State) : Result := deriveKeyOn Config.hw s

end Sys2Proof.Machine
end

