-- ==== Sys2Proof/Machine/Encrypt.lean ====
section
/-! DEFINITION. ENCRYPT (42_encrypt.md R190): CHECK, KEYGEN, CIPHER, MAC, COMMIT. -/

namespace Sys2Proof.Machine

/-- ENCRYPT's MAC phase: the tag over the ciphertext it staged (42_encrypt.md R192). -/
def encryptMac (c : Config) (s : State) : State :=
  goTo .commit (setStageTag (macTag c (stageBytes s (dataLength s)) s) (macLogged c (stageBytes s (dataLength s)) s))

/-- The next step of ENCRYPT in configuration `c`: its accept on an idle block (10_state.md R41, 30_encoding.md R128; log
entry 2), the phase's action otherwise. -/
def encryptOn (c : Config) (s : State) : Result :=
  match s.phase with
  | .idle    => .next (accept (encode .encrypt) s)
  | .check   => .next (checkLengths c (goTo .keygen) s)
  | .keygen  => .next (goTo .cipher (keygen c s))
  | .cipher  => .next (cipher c .encryptionFailure (goTo .mac) s)
  | .mac     => .next (encryptMac c s)
  | .commit  => .next (commit s)
  | .compare => .fault .phaseNotReached
  | .padout  => .fault .phaseNotReached

/-- ENCRYPT on the hardware. -/
def execEncrypt (s : State) : Result := encryptOn Config.hw s

end Sys2Proof.Machine
end

