-- ==== Sys2Proof/Machine/Pad.lean ====
section
/-! DEFINITION. PAD (40_pad.md R154): CHECK, PADOUT, COMMIT. -/

namespace Sys2Proof.Machine

/-- The next step of PAD in configuration `c` (see `encryptOn`). -/
def padOn (c : Config) (s : State) : Result :=
  match s.phase with
  | .idle    => .next (accept (encode .pad) s)
  | .check   => .next (checkLengths c (checkPadLength c) s)
  | .padout  => .next (padOut c s)
  | .commit  => .next (commit s)
  | .keygen  => .fault .phaseNotReached
  | .cipher  => .fault .phaseNotReached
  | .mac     => .fault .phaseNotReached
  | .compare => .fault .phaseNotReached

/-- PAD on the hardware. -/
def execPad (s : State) : Result := padOn Config.hw s

end Sys2Proof.Machine
end

