-- ==== Sys2Proof/Machine/Dispatch.lean ====
section
/-! DEFINITION. One arm a command, in the opcode table's order. -/

namespace Sys2Proof.Machine

def exec (i : Instr) (s : State) : Host.Outcome State Fault Refusal :=
  match i with
  | .encrypt => Sys2Proof.Machine.execEncrypt s
  | .decrypt => Sys2Proof.Machine.execDecrypt s
  | .pad => Sys2Proof.Machine.execPad s
  | .deriveKey => Sys2Proof.Machine.execDeriveKey s

end Sys2Proof.Machine
end

