-- ==== Sys2Proof/Machine/Registers.lean ====
section
/-! DEFINITION. The register map (10_state.md R33), the buffer windows (20_memory.md R89) and the aperture (R80). -/

namespace Sys2Proof.Machine

/-- The host-visible registers (10_state.md R33); an index is the word's place in its group. -/
inductive Reg where
  | ctrl | cmd | status
  | aadLenLo | aadLenHi | dataLenLo | dataLenHi | outLenLo | outLenHi
  | capAad | capData | capOut
  | key (i : Fin 8) | nonce (i : Fin 3) | tagIn (i : Fin 4) | tagOut (i : Fin 4)
deriving DecidableEq, Repr

/-- What an offset names: a register, or the word of a window that holds the buffer's bytes from `off` on. -/
inductive Target where
  | reg (r : Reg)
  | aad (off : Nat)
  | data (off : Nat)
  | out (off : Nat)
deriving DecidableEq, Repr

/-- The offsets of the control, status, length and capacity registers (10_state.md R33). -/
def controlMap : List (Nat × Reg) :=
  [(0x000, .ctrl), (0x004, .cmd), (0x008, .status),
   (0x010, .aadLenLo), (0x014, .aadLenHi), (0x018, .dataLenLo), (0x01C, .dataLenHi),
   (0x020, .outLenLo), (0x024, .outLenHi), (0x028, .capAad), (0x02C, .capData), (0x030, .capOut)]

/-- The offsets of the key, nonce and tag registers (10_state.md R33). -/
def operandMap : List (Nat × Reg) :=
  (List.finRange 8).map (fun i => (0x040 + 4 * i.val, Reg.key i))
    ++ (List.finRange 3).map (fun i => (0x060 + 4 * i.val, Reg.nonce i))
    ++ (List.finRange 4).map (fun i => (0x070 + 4 * i.val, Reg.tagIn i))
    ++ (List.finRange 4).map (fun i => (0x080 + 4 * i.val, Reg.tagOut i))

/-- The register map. -/
def registerMap : List (Nat × Reg) := controlMap ++ operandMap

/-- Where the three windows start (20_memory.md R89). -/
def aadWindow : Nat := 0x100000
def dataWindow : Nat := 0x200000
def outWindow : Nat := 0x400000

/-- The size of the aperture (20_memory.md R80). -/
def apertureSize : Nat := 2 ^ 23

/-- The offset of a platform address, if the address is in the aperture (20_memory.md R80). -/
def offsetOf (c : Config) (addr : Nat) : Option Nat :=
  if c.base ≤ addr ∧ addr < c.base + apertureSize then some (addr - c.base) else none

/-- What an offset names; `none` is a bus error (20_memory.md R83, R84, R89). -/
def targetOf (c : Config) (off : Nat) : Option Target :=
  if off % 4 ≠ 0 then none
  else if aadWindow ≤ off ∧ off < aadWindow + c.aadCap then some (.aad (off - aadWindow))
  else if dataWindow ≤ off ∧ off < dataWindow + c.dataCap then some (.data (off - dataWindow))
  else if outWindow ≤ off ∧ off < outWindow + c.outCap then some (.out (off - outWindow))
  else (registerMap.lookup off).map .reg

end Sys2Proof.Machine
end

