-- ==== Sys2Proof/Machine/Bus.lean ====
section
/-! DEFINITION. The host's bus accesses (20_memory.md R80 to R93, 10_state.md R33 to R58). -/

namespace Sys2Proof.Machine

/-- The word a host read of a register returns (10_state.md R33; a write-only register reads 0, 20_memory.md R85). -/
def readReg (c : Config) (s : State) : Reg → Word
  | .ctrl      => ctrlWord s
  | .cmd       => 0#32
  | .status    => statusWord s
  | .aadLenLo  => wordAt s.aadLen 0
  | .aadLenHi  => wordAt s.aadLen 1
  | .dataLenLo => wordAt s.dataLen 0
  | .dataLenHi => wordAt s.dataLen 1
  | .outLenLo  => wordAt s.outLen 0
  | .outLenHi  => wordAt s.outLen 1
  | .capAad    => BitVec.ofNat 32 c.aadCap
  | .capData   => BitVec.ofNat 32 c.dataCap
  | .capOut    => BitVec.ofNat 32 c.outCap
  | .key _     => 0#32
  | .nonce i   => wordAt s.nonce i.val
  | .tagIn i   => wordAt s.tagIn i.val
  | .tagOut i  => wordAt s.tagOut i.val

/-- The word of a buffer whose bytes start at `off` (20_memory.md R90). -/
def bufferWord (d : Nat → Byte) (m : Memory) (off : Nat) : Word :=
  BitVec.ofNat 32 (leValue (Memory.readBytes d m off 4))

/-- The word a host read returns. -/
def readTarget (c : Config) (s : State) : Target → Word
  | .reg r    => readReg c s r
  | .aad off  => bufferWord (aadUnlisted c s) s.aadMem off
  | .data off => bufferWord (inUnlisted c s) s.inMem off
  | .out off  => bufferWord zeroUnlisted s.outMem off

/-- A write to an operand register or input buffer: ignored while BUSY = 1 (20_memory.md R91). -/
def unlessBusy (f : State → State) (s : State) : State := if s.busy then s else f s

/-- A host write of `v` to a register; a write to a read-only register is ignored (20_memory.md R85). -/
def writeReg (v : Word) : Reg → State → State
  | .ctrl,      s => ctrlWrite v s
  | .cmd,       s => cmdWrite v s
  | .status,    s => statusWrite v s
  | .aadLenLo,  s => unlessBusy (fun s => { s with aadLen := setWordAt s.aadLen 0 v }) s
  | .aadLenHi,  s => unlessBusy (fun s => { s with aadLen := setWordAt s.aadLen 1 v }) s
  | .dataLenLo, s => unlessBusy (fun s => { s with dataLen := setWordAt s.dataLen 0 v }) s
  | .dataLenHi, s => unlessBusy (fun s => { s with dataLen := setWordAt s.dataLen 1 v }) s
  | .outLenLo,  s => s
  | .outLenHi,  s => s
  | .capAad,    s => s
  | .capData,   s => s
  | .capOut,    s => s
  | .key i,     s => unlessBusy (fun s => { s with key := setWordAt s.key i.val v }) s
  | .nonce i,   s => unlessBusy (fun s => { s with nonce := setWordAt s.nonce i.val v }) s
  | .tagIn i,   s => unlessBusy (fun s => { s with tagIn := setWordAt s.tagIn i.val v }) s
  | .tagOut _,  s => s

/-- A host write of `v` (20_memory.md R90; the OUT_MEM window is read-only, R89). -/
def writeTarget (c : Config) (v : Word) : Target → State → State
  | .reg r,    s => writeReg v r s
  | .aad off,  s =>
    unlessBusy (fun s => { s with aadMem := Memory.writeBytes (aadUnlisted c s) s.aadMem off (bytesOf v 4) }) s
  | .data off, s =>
    unlessBusy (fun s => { s with inMem := Memory.writeBytes (inUnlisted c s) s.inMem off (bytesOf v 4) }) s
  | .out _,    s => s

/-- One host access at a platform address: `go` is what it does to the word the address names. An address outside the
aperture is no access to this block (R80); an offset that names nothing is a bus error (R84). -/
def hostAccess (c : Config) (addr : Nat) (go : Target → State) : Result :=
  match offsetOf c addr with
  | none => .fault .outsideAperture
  | some off =>
    match targetOf c off with
    | none   => .fault .busError
    | some t => .next (go t)

/-- A host read (R86: it changes nothing of the block). -/
def hostRead (c : Config) (addr : Nat) (s : State) : Result :=
  hostAccess c addr fun t => respond (.data (readTarget c s t)) s

/-- A host write (R85: every write that is no bus error gets a normal response). -/
def hostWrite (c : Config) (addr : Nat) (v : Word) (s : State) : Result :=
  hostAccess c addr fun t => respond .written (writeTarget c v t s)

end Sys2Proof.Machine
end

