-- ==== Sys2Proof/Machine/IllegalWord.lean ====
section
/-! DEFINITION. A CMD word that is no command (30_encoding.md R122): accepted, fails in CHECK, commits zero outputs. -/

namespace Sys2Proof.Machine

/-- The CAUSE of an illegal word (30_encoding.md R123). -/
def illegalCause : Illegal → Cause
  | .reservedBits => .reservedBits
  | .badOpcode    => .badOpcode

/-- The sequencer's step for an illegal word. -/
def illegalStep (why : Illegal) (s : State) : Result :=
  match s.phase with
  | .idle    => .next s
  | .check   => .next (fail .illegalCommand (illegalCause why) s)
  | .commit  => .next (commit s)
  | .keygen  => .fault .phaseNotReached
  | .cipher  => .fault .phaseNotReached
  | .mac     => .fault .phaseNotReached
  | .compare => .fault .phaseNotReached
  | .padout  => .fault .phaseNotReached

end Sys2Proof.Machine
end

