-- ==== Sys2Proof/Machine/Turns.lean ====
section
/-! DEFINITION. One step of the machine, over a configuration and the meaning `ex` of the commands: the turn that the script
names, the sequencer's when the script is used up (00_scope.md R13; log entry 1). -/

namespace Sys2Proof.Machine

/-- The sequencer's turn (10_state.md R60, R61): in IDLE it has no step, so nothing changes (log entry 11); otherwise the
command of the latched word takes its next step. -/
def sequencerTurn (ex : Instr → State → Result) (s : State) : Result :=
  match s.phase with
  | .idle => .next s
  | _ =>
    match decode s.cmdw with
    | .command i   => ex i s
    | .illegal why => illegalStep why s

/-- One turn; the script's rest is already in place. -/
def takeTurn (c : Config) (ex : Instr → State → Result) (t : Turn) (s : State) : Result :=
  match t with
  | .read addr    => hostRead c addr s
  | .write addr v => hostWrite c addr v s
  | .sequencer    => sequencerTurn ex s
  | .powerOnReset => .next (powerOnReset s)

/-- One step. -/
def stepWith (c : Config) (ex : Instr → State → Result) (s : State) : Result :=
  match s.script with
  | []        => sequencerTurn ex s
  | t :: rest => takeTurn c ex t (setScript rest s)

/-- The four commands in configuration `c`. -/
def execOn (c : Config) (i : Instr) (s : State) : Result :=
  match i with
  | .encrypt   => encryptOn c s
  | .decrypt   => decryptOn c s
  | .pad       => padOn c s
  | .deriveKey => deriveKeyOn c s

/-- One step in configuration `c`. -/
def stepOn (c : Config) (s : State) : Result := stepWith c (execOn c) s

/-- `n` steps in configuration `c`, stopping at the first that does not answer a next state. -/
def runOn (c : Config) : Nat → State → Result
  | 0, s => .next s
  | n + 1, s =>
    match stepOn c s with
    | .next t    => runOn c n t
    | .fault r   => .fault r
    | .refused r => .refused r

end Sys2Proof.Machine
end

