-- ==== Sys2Proof/Machine/Step.lean ====
section
/-! DEFINITION. The step of the hardware, and how a command word gets to where the sequencer reads it. -/

namespace Sys2Proof.Machine

/-- One step of the hardware. -/
def step (s : State) : Host.Outcome State Fault Refusal := stepWith Config.hw exec s

/-- `s` with the command word `w` accepted (10_state.md R41, R61: the sequencer reads its opcode from the word latched at
accept) and no host turn before the sequencer's, so that the next step is that command's first (log entry 3). -/
def State.withFetchWord (s : State) (nbits w : Nat) : State :=
  accept (BitVec.ofNat 32 (w % 2 ^ nbits)) (setScript [] s)

end Sys2Proof.Machine
end

