-- ==== Sys2Proof/WellFormed.lean ====
section
/-! DEFINITION. The checks: on a CMD word (30_encoding.md R120 to R122) and on a configuration (00_scope.md R8).
A term of `Instr` has no field, so nothing about it can be ill-formed; what can be is the word that is to stand for
one. -/

namespace Sys2Proof

/-- RSV, bits 31:4, must be zero (R120). -/
def reservedBitsZero (w : Word) : Bool := w.extractLsb' 4 28 == 0#28

/-- OPCODE, bits 3:0, is one of the four assigned values (R121). -/
def opcodeAssigned (w : Word) : Bool :=
  1 ≤ (w.extractLsb' 0 4).toNat && (w.extractLsb' 0 4).toNat ≤ 4

/-- A word that stands for a command: both checks hold. -/
def wordWellFormed (w : Word) : Bool := reservedBitsZero w && opcodeAssigned w

/-- A capacity is a multiple of 16 between two bounds (00_scope.md R8). -/
def capWellFormed (lo hi cap : Nat) : Bool := cap % 16 == 0 && (lo ≤ cap && cap ≤ hi)

/-- The constraints of the table of 00_scope.md R8. -/
def Config.wellFormed (c : Config) : Bool :=
  capWellFormed 16 (2 ^ 20) c.aadCap
    && capWellFormed 16 (2 ^ 20) c.dataCap
    && capWellFormed (max c.dataCap 32) (2 ^ 22) c.outCap
    && (1 ≤ c.scMaxCounter && c.scMaxCounter ≤ 2 ^ 64 - 1)
    && c.base % 2 ^ 23 == 0

end Sys2Proof
end

