-- ==== Sys2Proof/Safety.lean ====
section
/-! DEFINITION. What the claims are stated in: the invariant of the block, the commands' events since their accept, and the
relations between states that the ordering and secrecy rules speak of. -/

namespace Sys2Proof.Machine

/-- Which phases a word's command goes through: the table of 10_state.md R68. -/
def reaches : Decoded → Phase → Bool
  | _, .check => true
  | _, .commit => true
  | .command .encrypt, .keygen => true
  | .command .encrypt, .cipher => true
  | .command .encrypt, .mac => true
  | .command .decrypt, .keygen => true
  | .command .decrypt, .mac => true
  | .command .decrypt, .compare => true
  | .command .decrypt, .cipher => true
  | .command .pad, .padout => true
  | .command .deriveKey, .keygen => true
  | _, _ => false

/-- Nothing is staged (10_state.md R65). -/
def nothingStaged (s : State) : Prop := s.stage = [] ∧ s.stageLen = 0 ∧ s.stageTag = 0#128

/-- No output is visible: OUT_MEM all zero, OUT_LEN 0, TAG_OUT zero (10_state.md R41, 60_exceptions.md R272). -/
def outputsZero (s : State) : Prop := s.outMem = [] ∧ s.outLen = 0#64 ∧ s.tagOut = 0#128

/-- The flags and codes (10_state.md R43 to R48, 60_exceptions.md R271). -/
structure FlagsInv (s : State) : Prop where
  busyIffRunning : s.busy = true ↔ s.phase ≠ .idle
  clearWhileBusy : s.busy = true → s.done = false ∧ s.err = .ok ∧ s.cause = .none
  causeFitsErr   : causeFits s.err s.cause = true
  resultFits     : causeFits s.result.1 s.result.2 = true
  resultOpen     : s.phase ≠ .commit → s.result = (.ok, .none)
  lastOpcode     : s.busy = true → s.lastOpc = opcodeOf s.cmdw

/-- The byte buffers: canonical, within their capacities, nothing listed at or beyond the length (10_state.md R65, R71 to
R73; 93 I15). -/
structure BuffersInv (c : Config) (s : State) : Prop where
  aadWf    : Memory.wf (aadUnlisted c s) s.aadMem = true ∧ Memory.below c.aadCap s.aadMem = true
  inWf     : Memory.wf (inUnlisted c s) s.inMem = true ∧ Memory.below c.dataCap s.inMem = true
  outWf    : Memory.wf zeroUnlisted s.outMem = true ∧ Memory.below s.outLen.toNat s.outMem = true
  stageWf  : Memory.wf zeroUnlisted s.stage = true ∧ Memory.below s.stageLen s.stage = true
  outFits  : s.outLen.toNat ≤ c.outCap
  stageFits : s.stageLen ≤ c.outCap

/-- The running command: a phase it reaches, lengths that CHECK has bounded (10_state.md R68, 30_encoding.md R123). -/
structure CommandInv (c : Config) (s : State) : Prop where
  phaseReached : s.phase = .idle ∨ reaches (decode s.cmdw) s.phase = true
  lengthsBounded : s.phase = .cipher ∨ s.phase = .mac ∨ s.phase = .compare ∨ s.phase = .padout
      ∨ (s.phase = .keygen ∧ decode s.cmdw ≠ .command .deriveKey) →
    aadLength s ≤ c.aadCap ∧ dataLength s ≤ c.dataCap
  padBounded : s.phase = .padout → padLength s ≤ c.outCap

/-- Hidden state and outputs (10_state.md R58, R61 to R66, R69, R73). -/
structure HiddenInv (s : State) : Prop where
  idleClear    : s.phase = .idle → s.cmdw = 0#32 ∧ s.mackey = 0#256 ∧ s.expTag = 0#128
  keyUnset     : s.phase = .check ∨ s.phase = .keygen ∨ s.phase = .padout → s.mackey = 0#256 ∧ s.expTag = 0#128
  unstaged     : s.phase ≠ .mac → s.phase ≠ .commit → nothingStaged s
  macStaged    : s.phase = .mac → s.stageTag = 0#128
    ∧ (decode s.cmdw = .command .encrypt → s.stageLen = dataLength s)
    ∧ (decode s.cmdw = .command .decrypt → nothingStaged s)
  failUnstaged : s.result.1 ≠ .ok → nothingStaged s
  tagStaged    : s.stageTag ≠ 0#128 → decode s.cmdw = .command .encrypt
  busyNoOutput : s.busy = true → outputsZero s
  failNoOutput : s.err ≠ .ok → outputsZero s
  tagOutput    : s.tagOut ≠ 0#128 → s.lastOpc = 0x1#4

/-- The invariant of the block in configuration `c`. -/
structure Inv (c : Config) (s : State) : Prop where
  flags   : FlagsInv s
  buffers : BuffersInv c s
  command : CommandInv c s
  hidden  : HiddenInv s

/-- Is the event an accept? -/
def Event.isAccept : Event → Bool
  | .accept _ => true
  | .block _ _ _ => false
  | .apply _ _ _ _ _ => false
  | .mac _ _ => false
  | .commit _ _ => false
  | .abort => false

/-- Is the event a transaction on the stream cipher's apply port? -/
def Event.isApply : Event → Bool
  | .accept _ => false
  | .block _ _ _ => false
  | .apply _ _ _ _ _ => true
  | .mac _ _ => false
  | .commit _ _ => false
  | .abort => false

/-- The events logged since the last accept, oldest first. -/
def sinceAccept (l : List Event) : List Event := (l.reverse.takeWhile fun e => !e.isAccept).reverse

/-- No apply transaction since the last accept. -/
def noApplySinceAccept (s : State) : Prop := (sinceAccept s.log).all (fun e => !e.isApply) = true

/-- Verify before decrypt as an invariant (43_decrypt.md R212): until COMPARE has found the tags equal, and after it has
found them different, a DECRYPT has made no apply transaction; in CIPHER the tags are equal. -/
structure VerifyFirst (s : State) : Prop where
  beforeCompare : decode s.cmdw = .command .decrypt →
    s.phase = .check ∨ s.phase = .keygen ∨ s.phase = .mac ∨ s.phase = .compare → noApplySinceAccept s
  cipherVerified : decode s.cmdw = .command .decrypt → s.phase = .cipher →
    ctEq16 s.expTag s.tagIn = true ∧ noApplySinceAccept s
  mismatchPending : s.result = (.authenticationFailure, .tagMismatch) → noApplySinceAccept s
  mismatchDone : s.err = .authenticationFailure → noApplySinceAccept s

/-- `t` differs from `s` at most in what a host may change while a command runs: IRQ_EN, OVERRUN, and the model's own
`script` and `response` (20_memory.md R91, R96). -/
def SameCommand (s t : State) : Prop :=
  t = { s with irqEn := t.irqEn, overrun := t.overrun, script := t.script, response := t.response }

/-- `s` and `t` agree on everything but the key and the hidden state (20_memory.md R93, 10_state.md R55). -/
def SameButHidden (s t : State) : Prop :=
  t = { s with
    key := t.key, phase := t.phase, cmdw := t.cmdw, result := t.result, mackey := t.mackey, expTag := t.expTag
    stage := t.stage, stageLen := t.stageLen, stageTag := t.stageTag, log := t.log }

/-- The message operands: the two lengths and the bytes of the two input buffers within them. -/
def SameMessage (c : Config) (s t : State) : Prop :=
  t.aadLen = s.aadLen ∧ t.dataLen = s.dataLen ∧ aadOperand c t = aadOperand c s ∧ dataOperand c t = dataOperand c s

/-- `s` and `t` agree on the operands of a word's command, the column "reads" of 30_encoding.md R126; an illegal word reads
none (R122). -/
def SameOperands (c : Config) (d : Decoded) (s t : State) : Prop :=
  match d with
  | .command .encrypt   => t.key = s.key ∧ t.nonce = s.nonce ∧ SameMessage c s t
  | .command .decrypt   => t.key = s.key ∧ t.nonce = s.nonce ∧ t.tagIn = s.tagIn ∧ SameMessage c s t
  | .command .pad       => SameMessage c s t
  | .command .deriveKey => t.key = s.key ∧ t.nonce = s.nonce
  | .illegal _          => True

/-- What a commit leaves for the host to read (60_exceptions.md R272, 20_memory.md R96). -/
def SameOutputs (s t : State) : Prop :=
  t.outMem = s.outMem ∧ t.outLen = s.outLen ∧ t.tagOut = s.tagOut ∧ t.err = s.err ∧ t.cause = s.cause

/-- Every field of 10_state.md R30 but AAD_MEM, IN_MEM and the log at its reset value (R76), OUT_MEM and the stage with
nothing listed. -/
def AtResetValues (s : State) : Prop :=
  (s.irqEn = false ∧ s.busy = false ∧ s.done = false ∧ s.overrun = false ∧ s.err = .ok ∧ s.cause = .none ∧ s.lastOpc = 0#4)
    ∧ (s.aadLen = 0#64 ∧ s.dataLen = 0#64 ∧ s.outLen = 0#64)
    ∧ (s.key = 0#256 ∧ s.nonce = 0#96 ∧ s.tagIn = 0#128 ∧ s.tagOut = 0#128 ∧ s.outMem = [])
    ∧ (s.phase = .idle ∧ s.cmdw = 0#32 ∧ s.result = (.ok, .none) ∧ s.mackey = 0#256 ∧ s.expTag = 0#128)
    ∧ (s.stage = [] ∧ s.stageLen = 0 ∧ s.stageTag = 0#128)

/-- The operands and what else of the block no command writes (10_state.md R31, R71, R72). -/
def SameInputs (s t : State) : Prop :=
  (t.key = s.key ∧ t.nonce = s.nonce ∧ t.tagIn = s.tagIn ∧ t.aadLen = s.aadLen ∧ t.dataLen = s.dataLen)
    ∧ (t.aadMem = s.aadMem ∧ t.inMem = s.inMem ∧ t.powerOns = s.powerOns)
    ∧ (t.irqEn = s.irqEn ∧ t.overrun = s.overrun)

/-- The flags and codes of STATUS (10_state.md R70). -/
def statusFields (s : State) : Bool × Bool × Bool × Err × Cause × BitVec 4 :=
  (s.busy, s.done, s.overrun, s.err, s.cause, s.lastOpc)

/-- The block is idle again with its command done, ERR and CAUSE as given (10_state.md R66). -/
def CommittedWith (e : Err) (c : Cause) (opcode : BitVec 4) (s : State) : Prop :=
  s.phase = .idle ∧ s.busy = false ∧ s.done = true ∧ s.err = e ∧ s.cause = c ∧ s.lastOpc = opcode

/-- `s` with one host write of the word `w` to CMD to come, and the sequencer's turns after it. -/
def withCmdWrite (c : Config) (w : Word) (s : State) : State := { s with script := [.write (c.base + 0x004) w] }

/-- The one-time MAC key of the operands: the first 32 bytes of the block at counter 0 (41_keysched.md R170). -/
def macKeyOf (c : Config) (s : State) : Key := (c.scBlock s.key 0#64 s.nonce).extractLsb' 0 256

/-- Byte `i` of the message keystream of the operands, which starts at counter 1 (45_collaborators.md R242). -/
def streamByte (c : Config) (s : State) (i : Nat) : Byte :=
  (c.scBlock s.key (1#64 + BitVec.ofNat 64 (i / 64)) s.nonce).extractLsb' (8 * (i % 64)) 8

/-- The step of `s`, whose first turn is a host read and whose other turns are `rest`, answers the word whose value is `n`
and changes nothing else (20_memory.md R86). -/
def ReadReturns (s : State) (rest : List Turn) (n : Nat) : Prop :=
  ∃ w : Word, step s = .next { s with script := rest, response := .data w } ∧ w.toNat = n

/-- Byte `i` of IN_MEM. -/
def inByte (c : Config) (s : State) (i : Nat) : Byte := Memory.read (inUnlisted c s) s.inMem i

/-- Byte `i` of AAD_MEM. -/
def aadByte (c : Config) (s : State) (i : Nat) : Byte := Memory.read (aadUnlisted c s) s.aadMem i

/-- Byte `i` of OUT_MEM. -/
def outByte (s : State) (i : Nat) : Byte := Memory.read zeroUnlisted s.outMem i

/-- Byte `i` of the stage buffer. -/
def stageByte (s : State) (i : Nat) : Byte := Memory.read zeroUnlisted s.stage i

/-- The offsets of AAD_LEN, DATA_LEN, KEY, NONCE, TAG_IN and the two writable windows (20_memory.md R91). -/
def operandOffset (c : Config) (off : Nat) : Prop :=
  off % 4 = 0 ∧ ((0x010 ≤ off ∧ off < 0x020) ∨ (0x040 ≤ off ∧ off < 0x06C) ∨ (0x070 ≤ off ∧ off < 0x080)
    ∨ (0x100000 ≤ off ∧ off < 0x100000 + c.aadCap) ∨ (0x200000 ≤ off ∧ off < 0x200000 + c.dataCap))

/-- The offsets of the read-only registers and the read-only window (20_memory.md R85). -/
def readOnlyOffset (c : Config) (off : Nat) : Prop :=
  off % 4 = 0 ∧ ((0x020 ≤ off ∧ off < 0x034) ∨ (0x080 ≤ off ∧ off < 0x090)
    ∨ (0x400000 ≤ off ∧ off < 0x400000 + c.outCap))

/-- The offsets that name something: CTRL, CMD, STATUS, an operand or a read-only word (10_state.md R33, 20_memory.md
R89). -/
def implementedOffset (c : Config) (off : Nat) : Prop :=
  off = 0x000 ∨ off = 0x004 ∨ off = 0x008 ∨ operandOffset c off ∨ readOnlyOffset c off

/-- Is a host write a soft reset (10_state.md R35)? -/
def isSoftReset (c : Config) (addr : Nat) (v : Word) : Bool :=
  decide (offsetOf c addr = some 0x000) && v.getLsbD 1

end Sys2Proof.Machine
end

