-- ==== Sys2Proof/Certificates/Slice0/Obligations.lean ====
section
/-! DEFINITION. The statements for the provers. Offsets are the numbers of 10_state.md R33 and 20_memory.md R89; a bus
access is the first turn of `script`; a statement about every configuration that keeps the limits of 00_scope.md R8
covers the hardware's own, `Config.hw`. -/

open Sys2Proof Sys2Proof.Machine

/-! ### Reset -/

/-- R300, R301 with the values of R76: what a pulse of the reset input leaves, and that the block then waits. -/
def Obligations.PowerOnResetLeavesResetValues : Prop :=
  ∀ (s : State) (rest : List Turn), s.script = .powerOnReset :: rest →
    ∃ t, step s = .next t ∧ AtResetValues t ∧ t.log = [] ∧ t.script = rest
      ∧ (∀ a, aadByte Config.hw t a = Config.hw.poAad (s.powerOns + 1) a)
      ∧ (∀ a, inByte Config.hw t a = Config.hw.poIn (s.powerOns + 1) a)
      ∧ (∀ a, outByte t a = 0#8 ∧ stageByte t a = 0#8)
      ∧ irq t = false
      ∧ step { t with script := [] } = .next { t with script := [] }

/-- R76 for the state the machine starts in, with the draws of its power-on (R301). -/
def Obligations.ResetStateHoldsResetValues : Prop :=
  AtResetValues State.reset ∧ State.reset.log = [] ∧ irq State.reset = false
    ∧ (∀ a, aadByte Config.hw State.reset a = Config.hw.poAad 0 a)
    ∧ (∀ a, inByte Config.hw State.reset a = Config.hw.poIn 0 a)
    ∧ (∀ a, outByte State.reset a = 0#8)

/-- R302: a write to CTRL with bit 1 set, whatever the state. -/
def Obligations.SoftResetAbortsAndClears : Prop :=
  ∀ (s : State) (v : Word) (rest : List Turn),
    s.script = .write (Config.hw.base + 0x000) v :: rest → v.getLsbD 1 = true →
    ∃ t, step s = .next t ∧ AtResetValues t
      ∧ t.log = (if s.busy = true then s.log ++ [.abort] else s.log)
      ∧ (∀ a, aadByte Config.hw t a = aadByte Config.hw s a ∧ inByte Config.hw t a = inByte Config.hw s a)
      ∧ t.script = rest ∧ t.response = .written ∧ irq t = false

/-! ### CTRL, CMD and STATUS -/

/-- R34, R36: a CTRL write without bit 1 sets IRQ_EN only, at any time; a read returns IRQ_EN in bit 0. -/
def Obligations.CtrlSetsAndReadsInterruptEnable : Prop :=
  ∀ (s : State) (v : Word) (rest : List Turn),
    (s.script = .write (Config.hw.base + 0x000) v :: rest → v.getLsbD 1 = false →
      step s = .next { s with script := rest, irqEn := v.getLsbD 0, response := .written })
    ∧ (s.script = .read (Config.hw.base + 0x000) :: rest →
      step s = .next { s with script := rest, response := .data (if s.irqEn = true then 0x1#32 else 0x0#32) })

/-- R49, R50: a STATUS write clears DONE and OVERRUN where its bits 1 and 2 are set and does nothing else; a read returns
the fields at their places, zero at bit 3 and bits 31:16. -/
def Obligations.StatusClearsAndReadsItsFields : Prop :=
  ∀ (s : State) (v : Word) (rest : List Turn),
    (s.script = .write (Config.hw.base + 0x008) v :: rest →
      step s = .next { s with
        script := rest, response := .written
        done := if v.getLsbD 1 = true then false else s.done
        overrun := if v.getLsbD 2 = true then false else s.overrun })
    ∧ (s.script = .read (Config.hw.base + 0x008) :: rest →
      ∃ w : Word, step s = .next { s with script := rest, response := .data w }
        ∧ w.getLsbD 0 = s.busy ∧ w.getLsbD 1 = s.done ∧ w.getLsbD 2 = s.overrun ∧ w.getLsbD 3 = false
        ∧ w.extractLsb' 4 4 = errCode s.err ∧ w.extractLsb' 8 4 = causeCode s.cause
        ∧ w.extractLsb' 12 4 = s.lastOpc ∧ w.extractLsb' 16 16 = 0#16)

/-- R41: a CMD write while BUSY = 0, for every word. -/
def Obligations.CmdWriteWhenIdleAccepts : Prop :=
  ∀ (s : State) (w : Word) (rest : List Turn),
    s.script = .write (Config.hw.base + 0x004) w :: rest → s.busy = false →
    ∃ t, step s = .next t
      ∧ t = { s with
          script := rest, response := .written
          busy := true, done := false, err := .ok, cause := .none, lastOpc := w.extractLsb' 0 4
          outMem := t.outMem, outLen := 0#64, tagOut := 0#128
          cmdw := w, result := (.ok, .none), log := s.log ++ [.accept w], phase := .check }
      ∧ ∀ a, outByte t a = 0#8

/-- R42: a CMD write while BUSY = 1 sets OVERRUN and has no other effect. -/
def Obligations.CmdWriteWhileBusyOnlySetsOverrun : Prop :=
  ∀ (s : State) (w : Word) (rest : List Turn),
    s.script = .write (Config.hw.base + 0x004) w :: rest → s.busy = true →
    step s = .next { s with script := rest, response := .written, overrun := true }

/-- R74: the level output, and what raises and lowers it. -/
def Obligations.IrqFollowsEnableAndDone : Prop :=
  (∀ s : State, irq s = (s.irqEn && s.done))
    ∧ (∀ (i : Instr) (s t : State), s.phase = .commit → exec i s = .next t → irq t = s.irqEn)
    ∧ (∀ (s t : State) (v : Word) (rest : List Turn), step s = .next t →
        (s.script = .write (Config.hw.base + 0x000) v :: rest → v.getLsbD 1 = false → irq t = (v.getLsbD 0 && s.done))
        ∧ (s.script = .write (Config.hw.base + 0x000) v :: rest → v.getLsbD 1 = true → irq t = false)
        ∧ (s.script = .write (Config.hw.base + 0x004) v :: rest → s.busy = false → irq t = false)
        ∧ (s.script = .write (Config.hw.base + 0x008) v :: rest → v.getLsbD 1 = true → irq t = false))

/-- R70: in one step the flags and codes change only by a commit, a CMD write, a STATUS write or a reset. -/
def Obligations.FlagsChangeOnlyByTheirRules : Prop :=
  ∀ s t : State, step s = .next t → statusFields t ≠ statusFields s →
    (s.phase = .commit ∧ (s.script = [] ∨ ∃ rest, s.script = .sequencer :: rest))
    ∨ (∃ v rest, s.script = .write (Config.hw.base + 0x004) v :: rest)
    ∨ (∃ v rest, s.script = .write (Config.hw.base + 0x008) v :: rest)
    ∨ (∃ v rest, s.script = .write (Config.hw.base + 0x000) v :: rest ∧ v.getLsbD 1 = true)
    ∨ (∃ rest, s.script = .powerOnReset :: rest)

/-! ### The other registers, the windows, the bus -/

/-- R83, R84, R89: an access in the aperture is a bus error exactly where its offset names nothing or is not a multiple of 4.
That a bus error ends the run as the fault `busError` is the model's reading of R84 and 93 I3, log entry 8. -/
def Obligations.BusErrorExactlyOffTheMap : Prop :=
  ∀ (s : State) (off : Nat) (v : Word) (rest : List Turn), off < 2 ^ 23 →
    (s.script = .read (Config.hw.base + off) :: rest ∨ s.script = .write (Config.hw.base + off) v :: rest) →
    (off % 4 ≠ 0 → step s = .fault .busError)
    ∧ (¬ implementedOffset Config.hw off → step s = .fault .busError)
    ∧ (implementedOffset Config.hw off → ∃ t, step s = .next t)

/-- An address outside the aperture (R80): the model's own stop, log entry 9. -/
def Obligations.AccessOutsideApertureFaults : Prop :=
  ∀ (s : State) (addr : Nat) (v : Word) (rest : List Turn),
    (addr < Config.hw.base ∨ Config.hw.base + 2 ^ 23 ≤ addr) →
    (s.script = .read addr :: rest ∨ s.script = .write addr v :: rest) → step s = .fault .outsideAperture

/-- R86: a read changes nothing of the block. -/
def Obligations.ReadsHaveNoSideEffect : Prop :=
  ∀ (s t : State) (addr : Nat) (rest : List Turn),
    s.script = .read addr :: rest → step s = .next t → t = { s with script := rest, response := t.response }

/-- R85: read-only registers and fields ignore writes, write-only registers read 0, reserved bits read 0 and ignore
writes. -/
def Obligations.ReadOnlyIgnoredWriteOnlyReadsZero : Prop :=
  ∀ (s : State) (off : Nat) (v : Word) (rest : List Turn),
    (readOnlyOffset Config.hw off → s.script = .write (Config.hw.base + off) v :: rest →
      step s = .next { s with script := rest, response := .written })
    ∧ (off = 0x004 ∨ (off % 4 = 0 ∧ 0x040 ≤ off ∧ off < 0x060) → s.script = .read (Config.hw.base + off) :: rest →
      step s = .next { s with script := rest, response := .data 0#32 })
    ∧ (s.script = .write (Config.hw.base + 0x008) v :: rest →
      ∃ t, step s = .next t ∧ t = { s with script := rest, response := .written, done := t.done, overrun := t.overrun }
        ∧ step { s with script := .write (Config.hw.base + 0x008) (v &&& 0x6#32) :: rest } = .next t)
    ∧ (s.script = .write (Config.hw.base + 0x000) v :: rest →
      step { s with script := .write (Config.hw.base + 0x000) (v &&& 0x3#32) :: rest } = step s)
    ∧ (s.script = .read (Config.hw.base + 0x000) :: rest →
      ∃ w : Word, step s = .next { s with script := rest, response := .data w } ∧ w.extractLsb' 1 31 = 0#31)
    ∧ (s.script = .read (Config.hw.base + 0x008) :: rest →
      ∃ w : Word, step s = .next { s with script := rest, response := .data w } ∧ w.getLsbD 3 = false
        ∧ w.extractLsb' 16 16 = 0#16)

/-- R91: while BUSY = 1 a write to an operand is ignored; CTRL, STATUS and CMD writes are not; so every operand keeps its
value as long as the command runs. -/
def Obligations.OperandWritesIgnoredWhileBusy : Prop :=
  (∀ (s : State) (off : Nat) (v : Word) (rest : List Turn),
    s.busy = true → s.script = .write (Config.hw.base + off) v :: rest →
    (operandOffset Config.hw off → step s = .next { s with script := rest, response := .written })
    ∧ (off = 0x000 → v.getLsbD 1 = false →
      step s = .next { s with script := rest, response := .written, irqEn := v.getLsbD 0 })
    ∧ (off = 0x000 → v.getLsbD 1 = true → ∃ t, step s = .next t ∧ AtResetValues t)
    ∧ (off = 0x008 → step s = .next { s with
        script := rest, response := .written
        done := s.done && !v.getLsbD 1, overrun := s.overrun && !v.getLsbD 2 })
    ∧ (off = 0x004 → step s = .next { s with script := rest, response := .written, overrun := true }))
  ∧ ∀ s t : State, s.busy = true → step s = .next t → t.busy = true →
      (t.key = s.key ∧ t.nonce = s.nonce ∧ t.tagIn = s.tagIn) ∧ (t.aadLen = s.aadLen ∧ t.dataLen = s.dataLen)
        ∧ t.aadMem = s.aadMem ∧ t.inMem = s.inMem ∧ t.powerOns = s.powerOns

/-- R90: a window write while BUSY = 0 sets the four bytes of its word and no other; a window read returns the four bytes of
its word, the byte at the lower offset the less significant. -/
def Obligations.WindowWordsAreFourBytes : Prop :=
  ∀ (s : State) (i : Nat) (v : Word) (rest : List Turn),
    (s.busy = false → 4 * i < Config.hw.aadCap → s.script = .write (Config.hw.base + (0x100000 + 4 * i)) v :: rest →
      ∃ t, step s = .next t ∧ t = { s with script := rest, response := .written, aadMem := t.aadMem }
        ∧ ∀ a, aadByte Config.hw t a =
          if 4 * i ≤ a ∧ a < 4 * i + 4 then v.extractLsb' (8 * (a - 4 * i)) 8 else aadByte Config.hw s a)
    ∧ (s.busy = false → 4 * i < Config.hw.dataCap → s.script = .write (Config.hw.base + (0x200000 + 4 * i)) v :: rest →
      ∃ t, step s = .next t ∧ t = { s with script := rest, response := .written, inMem := t.inMem }
        ∧ ∀ a, inByte Config.hw t a =
          if 4 * i ≤ a ∧ a < 4 * i + 4 then v.extractLsb' (8 * (a - 4 * i)) 8 else inByte Config.hw s a)
    ∧ (4 * i < Config.hw.aadCap → s.script = .read (Config.hw.base + (0x100000 + 4 * i)) :: rest →
      ∃ w : Word, step s = .next { s with script := rest, response := .data w }
        ∧ ∀ j, j < 4 → w.extractLsb' (8 * j) 8 = aadByte Config.hw s (4 * i + j))
    ∧ (4 * i < Config.hw.dataCap → s.script = .read (Config.hw.base + (0x200000 + 4 * i)) :: rest →
      ∃ w : Word, step s = .next { s with script := rest, response := .data w }
        ∧ ∀ j, j < 4 → w.extractLsb' (8 * j) 8 = inByte Config.hw s (4 * i + j))
    ∧ (4 * i < Config.hw.outCap → s.script = .read (Config.hw.base + (0x400000 + 4 * i)) :: rest →
      ∃ w : Word, step s = .next { s with script := rest, response := .data w }
        ∧ ∀ j, j < 4 → w.extractLsb' (8 * j) 8 = outByte s (4 * i + j))

/-- R51 to R54: while BUSY = 0 each half of AAD_LEN and DATA_LEN is written on its own; in every state the halves of AAD_LEN,
DATA_LEN and OUT_LEN read as they are held and CAP_AAD, CAP_DATA, CAP_OUT read the capacities; OUT_LEN_HI reads 0 in every
state that meets the invariant. -/
def Obligations.LengthHalvesAreIndependent : Prop :=
  ∀ (s : State) (v : Word) (rest : List Turn),
    (s.busy = false → s.script = .write (Config.hw.base + 0x010) v :: rest →
      ∃ t, step s = .next t ∧ t = { s with script := rest, response := .written, aadLen := t.aadLen }
        ∧ t.aadLen.toNat = s.aadLen.toNat / 2 ^ 32 * 2 ^ 32 + v.toNat)
    ∧ (s.busy = false → s.script = .write (Config.hw.base + 0x014) v :: rest →
      ∃ t, step s = .next t ∧ t = { s with script := rest, response := .written, aadLen := t.aadLen }
        ∧ t.aadLen.toNat = v.toNat * 2 ^ 32 + s.aadLen.toNat % 2 ^ 32)
    ∧ (s.busy = false → s.script = .write (Config.hw.base + 0x018) v :: rest →
      ∃ t, step s = .next t ∧ t = { s with script := rest, response := .written, dataLen := t.dataLen }
        ∧ t.dataLen.toNat = s.dataLen.toNat / 2 ^ 32 * 2 ^ 32 + v.toNat)
    ∧ (s.busy = false → s.script = .write (Config.hw.base + 0x01C) v :: rest →
      ∃ t, step s = .next t ∧ t = { s with script := rest, response := .written, dataLen := t.dataLen }
        ∧ t.dataLen.toNat = v.toNat * 2 ^ 32 + s.dataLen.toNat % 2 ^ 32)
    ∧ (s.script = .read (Config.hw.base + 0x010) :: rest → ReadReturns s rest (s.aadLen.toNat % 2 ^ 32))
    ∧ (s.script = .read (Config.hw.base + 0x014) :: rest → ReadReturns s rest (s.aadLen.toNat / 2 ^ 32))
    ∧ (s.script = .read (Config.hw.base + 0x018) :: rest → ReadReturns s rest (s.dataLen.toNat % 2 ^ 32))
    ∧ (s.script = .read (Config.hw.base + 0x01C) :: rest → ReadReturns s rest (s.dataLen.toNat / 2 ^ 32))
    ∧ (s.script = .read (Config.hw.base + 0x020) :: rest → ReadReturns s rest (s.outLen.toNat % 2 ^ 32))
    ∧ (s.script = .read (Config.hw.base + 0x024) :: rest → ReadReturns s rest (s.outLen.toNat / 2 ^ 32))
    ∧ (Inv Config.hw s → s.script = .read (Config.hw.base + 0x024) :: rest → ReadReturns s rest 0)
    ∧ (s.script = .read (Config.hw.base + 0x028) :: rest → ReadReturns s rest Config.hw.aadCap)
    ∧ (s.script = .read (Config.hw.base + 0x02C) :: rest → ReadReturns s rest Config.hw.dataCap)
    ∧ (s.script = .read (Config.hw.base + 0x030) :: rest → ReadReturns s rest Config.hw.outCap)

/-- R55 to R58: while BUSY = 0 a write to word `i` of KEY, NONCE or TAG_IN sets its four bytes and no other; in every state
KEY reads 0, and NONCE, TAG_IN and TAG_OUT read as they are held. -/
def Obligations.KeyNonceTagWordsHoldFourBytes : Prop :=
  ∀ (s : State) (i : Nat) (v : Word) (rest : List Turn),
    (s.busy = false → i < 8 → s.script = .write (Config.hw.base + (0x040 + 4 * i)) v :: rest →
      ∃ t, step s = .next t ∧ t = { s with script := rest, response := .written, key := t.key }
        ∧ ∀ k, k < 32 → t.key.extractLsb' (8 * k) 8 =
          if 4 * i ≤ k ∧ k < 4 * i + 4 then v.extractLsb' (8 * (k - 4 * i)) 8 else s.key.extractLsb' (8 * k) 8)
    ∧ (i < 8 → s.script = .read (Config.hw.base + (0x040 + 4 * i)) :: rest →
      step s = .next { s with script := rest, response := .data 0#32 })
    ∧ (s.busy = false → i < 3 → s.script = .write (Config.hw.base + (0x060 + 4 * i)) v :: rest →
      ∃ t, step s = .next t ∧ t = { s with script := rest, response := .written, nonce := t.nonce }
        ∧ ∀ k, k < 12 → t.nonce.extractLsb' (8 * k) 8 =
          if 4 * i ≤ k ∧ k < 4 * i + 4 then v.extractLsb' (8 * (k - 4 * i)) 8 else s.nonce.extractLsb' (8 * k) 8)
    ∧ (i < 3 → s.script = .read (Config.hw.base + (0x060 + 4 * i)) :: rest →
      step s = .next { s with script := rest, response := .data (s.nonce.extractLsb' (32 * i) 32) })
    ∧ (s.busy = false → i < 4 → s.script = .write (Config.hw.base + (0x070 + 4 * i)) v :: rest →
      ∃ t, step s = .next t ∧ t = { s with script := rest, response := .written, tagIn := t.tagIn }
        ∧ ∀ k, k < 16 → t.tagIn.extractLsb' (8 * k) 8 =
          if 4 * i ≤ k ∧ k < 4 * i + 4 then v.extractLsb' (8 * (k - 4 * i)) 8 else s.tagIn.extractLsb' (8 * k) 8)
    ∧ (i < 4 → s.script = .read (Config.hw.base + (0x070 + 4 * i)) :: rest →
      step s = .next { s with script := rest, response := .data (s.tagIn.extractLsb' (32 * i) 32) })
    ∧ (i < 4 → s.script = .read (Config.hw.base + (0x080 + 4 * i)) :: rest →
      step s = .next { s with script := rest, response := .data (s.tagOut.extractLsb' (32 * i) 32) })

/-- R93 and the secrecy of KEY (R55): what a read returns does not depend on the key or the hidden state. -/
def Obligations.ReadsIndependentOfHiddenState : Prop :=
  ∀ (s t s' : State) (addr : Nat) (rest : List Turn),
    SameButHidden s t → s.script = .read addr :: rest → step s = .next s' →
    ∃ t', step t = .next t' ∧ t'.response = s'.response

/-- R92: while a command runs, the outputs and the result fields read 0. -/
def Obligations.OutputsReadZeroWhileBusy : Prop :=
  ∀ (s : State) (off : Nat) (rest : List Turn),
    Inv Config.hw s → s.busy = true → s.script = .read (Config.hw.base + off) :: rest →
    (off = 0x020 ∨ off = 0x024 ∨ (off % 4 = 0 ∧ 0x080 ≤ off ∧ off < 0x090)
        ∨ (off % 4 = 0 ∧ 0x400000 ≤ off ∧ off < 0x400000 + Config.hw.outCap) →
      step s = .next { s with script := rest, response := .data 0#32 })
    ∧ (off = 0x008 →
      ∃ w : Word, step s = .next { s with script := rest, response := .data w } ∧ w.getLsbD 0 = true
        ∧ w.getLsbD 1 = false ∧ w.extractLsb' 4 4 = 0#4 ∧ w.extractLsb' 8 4 = 0#4)

/-! ### The command word -/

/-- The four words written out from the table of R121, and six that are no command (R122, R123; V-W5 to V-W9). -/
def Obligations.CommandWordsDecode : Prop :=
  decode 0x00000001#32 = .command .encrypt ∧ decode 0x00000002#32 = .command .decrypt
    ∧ decode 0x00000003#32 = .command .pad ∧ decode 0x00000004#32 = .command .deriveKey
    ∧ decode 0x00000000#32 = .illegal .badOpcode ∧ decode 0x00000005#32 = .illegal .badOpcode
    ∧ decode 0x0000000F#32 = .illegal .badOpcode ∧ decode 0x00000010#32 = .illegal .reservedBits
    ∧ decode 0x80000001#32 = .illegal .reservedBits ∧ decode 0x00000017#32 = .illegal .reservedBits

/-- R121: a word selects a command exactly when its reserved bits are zero and its opcode is the command's. -/
def Obligations.WordSelectsItsCommandOnly : Prop :=
  ∀ (w : Word) (i : Instr),
    (decode w = .command i ↔ w = encode i)
    ∧ (decode w = .command i ↔ w.toNat / 16 = 0 ∧ w.toNat % 16 =
        (match i with | .encrypt => 1 | .decrypt => 2 | .pad => 3 | .deriveKey => 4))

/-- R122, first sentence: every other word is illegal, and why. -/
def Obligations.OtherWordsAreIllegal : Prop :=
  ∀ w : Word,
    (decode w = .illegal .reservedBits ↔ w.toNat / 16 ≠ 0)
    ∧ (decode w = .illegal .badOpcode ↔ w.toNat / 16 = 0 ∧ (w.toNat % 16 = 0 ∨ 5 ≤ w.toNat % 16))

/-! ### A step runs the latched command -/

/-- A sequencer turn runs the meaning of the command the latched word decodes to (R60, R61). -/
def Obligations.StepRunsTheLatchedCommand : Prop :=
  ∀ (s : State) (i : Instr), s.phase ≠ .idle → decode s.cmdw = .command i →
    (s.script = [] → step s = exec i s)
    ∧ (∀ rest, s.script = .sequencer :: rest → step s = exec i { s with script := rest })

/-- The statements over a configuration `c` are about the hardware at `c = Config.hw`: its meanings, its step and its runs
are those of that configuration. -/
def Obligations.HardwareIsItsConfiguration : Prop :=
  (∀ (i : Instr) (s : State), exec i s = execOn Config.hw i s)
    ∧ ∀ (n : Nat) (s : State), Sys2Proof.core.run n s = runOn Config.hw n s

/-- A command starts by its CMD write (R128: the command's line is that write), and the word placed by `withFetchWord`
runs next (log entries 2 and 3: the model's conventions). -/
def Obligations.CommandStartsByItsWord : Prop :=
  ∀ (s : State) (i : Instr),
    (∀ rest, s.phase = .idle → s.busy = false → s.script = .write (Config.hw.base + 0x004) (encode i) :: rest →
      step s = exec i { s with script := rest, response := .written })
    ∧ step (s.withFetchWord 32 (encode i).toNat) = exec i (s.withFetchWord 32 (encode i).toNat)

/-- What a command does on an idle block: its accept (R41; log entry 2). -/
def Obligations.EachCommandAcceptsWhenIdle : Prop :=
  ∀ (i : Instr) (s : State), s.phase = .idle →
    ∃ t, exec i s = .next t
      ∧ t = { s with
          busy := true, done := false, err := .ok, cause := .none
          lastOpc := (match i with | .encrypt => 1#4 | .decrypt => 2#4 | .pad => 3#4 | .deriveKey => 4#4)
          outMem := t.outMem, outLen := 0#64, tagOut := 0#128
          cmdw := encode i, result := (.ok, .none), log := s.log ++ [.accept (encode i)], phase := .check }
      ∧ ∀ a, outByte t a = 0#8

/-! ### The phases -/

/-- R123: the step of phase CHECK for every latched word, and the same at the level of the commands' meanings; what ENCRYPT,
DECRYPT and DERIVE_KEY put out fits OUT_MEM. -/
def Obligations.CheckPhaseInItsOrder : Prop :=
  (Config.hw.dataCap ≤ Config.hw.outCap ∧ 32 ≤ Config.hw.outCap) ∧ ∀ s : State, s.phase = .check →
    (s.script = [] → step s = .next
      (if s.cmdw.toNat / 16 ≠ 0 then { s with result := (.illegalCommand, .reservedBits), phase := .commit }
      else if s.cmdw.toNat % 16 = 0 ∨ 5 ≤ s.cmdw.toNat % 16 then
        { s with result := (.illegalCommand, .badOpcode), phase := .commit }
      else if s.cmdw.toNat % 16 ≠ 4 ∧ Config.hw.aadCap < s.aadLen.toNat then
        { s with result := (.lengthError, .aadTooLong), phase := .commit }
      else if s.cmdw.toNat % 16 ≠ 4 ∧ Config.hw.dataCap < s.dataLen.toNat then
        { s with result := (.lengthError, .dataTooLong), phase := .commit }
      else if s.cmdw.toNat % 16 = 3 ∧ Config.hw.outCap < ru16 s.aadLen.toNat + ru16 s.dataLen.toNat + 16 then
        { s with result := (.lengthError, .padTooLong), phase := .commit }
      else { s with phase := if s.cmdw.toNat % 16 = 3 then .padout else .keygen }))
    ∧ ∀ i : Instr, exec i s = .next
      (if i ≠ .deriveKey ∧ Config.hw.aadCap < s.aadLen.toNat then
        { s with result := (.lengthError, .aadTooLong), phase := .commit }
      else if i ≠ .deriveKey ∧ Config.hw.dataCap < s.dataLen.toNat then
        { s with result := (.lengthError, .dataTooLong), phase := .commit }
      else if i = .pad ∧ Config.hw.outCap < ru16 s.aadLen.toNat + ru16 s.dataLen.toNat + 16 then
        { s with result := (.lengthError, .padTooLong), phase := .commit }
      else { s with phase := if i = .pad then .padout else .keygen })

/-- R170: the step of phase KEYGEN for its three commands. -/
def Obligations.KeygenPhaseDerivesTheMacKey : Prop :=
  ∀ s : State, s.phase = .keygen →
    exec .encrypt s = .next { s with
        log := s.log ++ [.block s.key 0#64 s.nonce], mackey := macKeyOf Config.hw s, phase := .cipher }
    ∧ exec .decrypt s = .next { s with
        log := s.log ++ [.block s.key 0#64 s.nonce], mackey := macKeyOf Config.hw s, phase := .mac }
    ∧ ∃ t, exec .deriveKey s = .next t
      ∧ t = { s with
          log := s.log ++ [.block s.key 0#64 s.nonce], mackey := macKeyOf Config.hw s
          stage := t.stage, stageLen := 32, stageTag := 0#128, phase := .commit }
      ∧ ∀ a, stageByte t a = if a < 32 then (macKeyOf Config.hw s).extractLsb' (8 * a) 8 else stageByte s a

/-- R191: the step of phase CIPHER for ENCRYPT and DECRYPT, with the apply port's failure rule (R243) and its bytes
(R242). -/
def Obligations.CipherPhaseTransformsOrFails : Prop :=
  ∀ s : State, s.phase = .cipher →
    (∀ c : Config, 64 * c.scMaxCounter < s.dataLen.toNat →
      execOn c .encrypt s = .next { s with
          log := s.log ++ [.apply s.key s.nonce 1#64 (dataOperand c s) .streamCipherError]
          result := (.encryptionFailure, .streamLimit), phase := .commit }
      ∧ execOn c .decrypt s = .next { s with
          log := s.log ++ [.apply s.key s.nonce 1#64 (dataOperand c s) .streamCipherError]
          result := (.decryptionFailure, .streamLimit), phase := .commit })
    ∧ (∀ c : Config, s.dataLen.toNat ≤ 64 * c.scMaxCounter →
      ∃ t u, execOn c .encrypt s = .next t ∧ execOn c .decrypt s = .next u
        ∧ t = { s with
            log := s.log ++ [.apply s.key s.nonce 1#64 (dataOperand c s) .ok]
            stage := t.stage, stageLen := s.dataLen.toNat, phase := .mac }
        ∧ u = { t with stageTag := 0#128, phase := .commit }
        ∧ ∀ a, stageByte t a = if a < s.dataLen.toNat then inByte c s a ^^^ streamByte c s a else stageByte s a)
    ∧ exec .encrypt s = execOn Config.hw .encrypt s
    ∧ exec .decrypt s = execOn Config.hw .decrypt s

/-- R192: the step of phase MAC for ENCRYPT (over the staged ciphertext) and DECRYPT (over the host's). -/
def Obligations.MacPhaseSignsTheCiphertext : Prop :=
  ∀ s : State, s.phase = .mac →
    exec .encrypt s = .next { s with
        log := s.log ++ [.mac (padMessage ((List.range s.aadLen.toNat).map (aadByte Config.hw s))
          ((List.range s.dataLen.toNat).map (stageByte s))) s.mackey]
        stageTag := Config.hw.maCompute (padMessage ((List.range s.aadLen.toNat).map (aadByte Config.hw s))
          ((List.range s.dataLen.toNat).map (stageByte s))) s.mackey
        phase := .commit }
    ∧ exec .decrypt s = .next { s with
        log := s.log ++ [.mac (padMessage ((List.range s.aadLen.toNat).map (aadByte Config.hw s))
          ((List.range s.dataLen.toNat).map (inByte Config.hw s))) s.mackey]
        expTag := Config.hw.maCompute (padMessage ((List.range s.aadLen.toNat).map (aadByte Config.hw s))
          ((List.range s.dataLen.toNat).map (inByte Config.hw s))) s.mackey
        phase := .compare }

/-- R211 with R230: the step of phase COMPARE; the tags are equal exactly when all their bits are. -/
def Obligations.ComparePhaseChecksTheTag : Prop :=
  ∀ s : State, s.phase = .compare →
    exec .decrypt s = .next
      (if s.expTag = s.tagIn then { s with phase := .cipher }
      else { s with result := (.authenticationFailure, .tagMismatch), phase := .commit })

/-- R154: the step of phase PADOUT. -/
def Obligations.PadoutPhaseStagesThePaddedMessage : Prop :=
  ∀ s : State, s.phase = .padout →
    ∃ t, exec .pad s = .next t
      ∧ t = { s with
          stage := t.stage, stageLen := ru16 s.aadLen.toNat + ru16 s.dataLen.toNat + 16, stageTag := 0#128
          phase := .commit }
      ∧ (List.range t.stageLen).map (stageByte t) =
          padMessage ((List.range s.aadLen.toNat).map (aadByte Config.hw s))
            ((List.range s.dataLen.toNat).map (inByte Config.hw s))
      ∧ ∀ a, t.stageLen ≤ a → stageByte t a = stageByte s a

/-- R66: the step of phase COMMIT, the same for every command and for an illegal word. -/
def Obligations.CommitPhasePublishesAndClears : Prop :=
  ∀ s : State, s.phase = .commit → s.script = [] →
    ∃ t, step s = .next t ∧ (∀ i : Instr, exec i s = .next t)
      ∧ t = { s with
          outMem := t.outMem, outLen := t.outLen, tagOut := t.tagOut
          err := s.result.1, cause := s.result.2, busy := false, done := true
          mackey := 0#256, expTag := 0#128, stage := [], stageLen := 0, stageTag := 0#128
          cmdw := 0#32, result := (.ok, .none)
          log := s.log ++ [.commit s.result.1 s.result.2], phase := .idle }
      ∧ (∀ a, stageByte t a = 0#8)
      ∧ (s.result.1 = .ok → t.outLen = BitVec.ofNat 64 s.stageLen ∧ t.tagOut = s.stageTag
          ∧ ∀ a, outByte t a = if a < s.stageLen then stageByte s a else outByte s a)
      ∧ (s.result.1 ≠ .ok → t.outMem = s.outMem ∧ t.outLen = s.outLen ∧ t.tagOut = s.tagOut)

/-- The phases 10_state.md R68 says a command does not reach: the model stops there by name, log entry 10. -/
def Obligations.UnreachedPhasesFault : Prop :=
  ∀ (i : Instr) (s : State), s.phase ≠ .idle →
    (exec i s = .fault .phaseNotReached ↔ reaches (.command i) s.phase = false)

/-- R31, R71, R72: no command writes an operand register or an input buffer, nor IRQ_EN or OVERRUN. -/
def Obligations.CommandsKeepTheirOperands : Prop :=
  ∀ (i : Instr) (s t : State), exec i s = .next t →
    SameInputs s t ∧ t.script = s.script ∧ t.response = s.response

/-- R66, R73: between accept and commit no command step changes an output or a status field. -/
def Obligations.OutputsChangeOnlyAtCommit : Prop :=
  ∀ (i : Instr) (s t : State), exec i s = .next t → s.phase ≠ .idle → s.phase ≠ .commit →
    SameOutputs s t ∧ statusFields t = statusFields s

/-! ### Whole commands -/

/-- ENCRYPT from accept to commit (R190): ciphertext, tag, status, port transactions, operands kept. -/
def Obligations.EncryptCommitsCiphertextAndTag : Prop :=
  ∀ (c : Config) (s : State), c.wellFormed = true → Inv c s → s.phase = .idle →
    s.aadLen.toNat ≤ c.aadCap → s.dataLen.toNat ≤ c.dataCap → s.dataLen.toNat ≤ 64 * c.scMaxCounter →
    ∃ t, runOn c 6 (withCmdWrite c 0x1#32 s) = .next t ∧ CommittedWith .ok .none 0x1#4 t ∧ SameInputs s t
      ∧ t.outLen = s.dataLen
      ∧ (∀ a, outByte t a = if a < s.dataLen.toNat then inByte c s a ^^^ streamByte c s a else 0#8)
      ∧ t.tagOut = c.maCompute (padMessage ((List.range s.aadLen.toNat).map (aadByte c s))
          ((List.range s.dataLen.toNat).map (outByte t))) (macKeyOf c s)
      ∧ t.log = s.log ++ [.accept 0x1#32, .block s.key 0#64 s.nonce,
          .apply s.key s.nonce 1#64 ((List.range s.dataLen.toNat).map (inByte c s)) .ok,
          .mac (padMessage ((List.range s.aadLen.toNat).map (aadByte c s))
            ((List.range s.dataLen.toNat).map (outByte t))) (macKeyOf c s),
          .commit .ok .none]

/-- DECRYPT with the right tag, from accept to commit (R210). -/
def Obligations.DecryptCommitsPlaintext : Prop :=
  ∀ (c : Config) (s : State), c.wellFormed = true → Inv c s → s.phase = .idle →
    s.aadLen.toNat ≤ c.aadCap → s.dataLen.toNat ≤ c.dataCap → s.dataLen.toNat ≤ 64 * c.scMaxCounter →
    s.tagIn = c.maCompute (padMessage ((List.range s.aadLen.toNat).map (aadByte c s))
      ((List.range s.dataLen.toNat).map (inByte c s))) (macKeyOf c s) →
    ∃ t, runOn c 7 (withCmdWrite c 0x2#32 s) = .next t ∧ CommittedWith .ok .none 0x2#4 t ∧ SameInputs s t
      ∧ t.outLen = s.dataLen ∧ t.tagOut = 0#128
      ∧ (∀ a, outByte t a = if a < s.dataLen.toNat then inByte c s a ^^^ streamByte c s a else 0#8)
      ∧ t.log = s.log ++ [.accept 0x2#32, .block s.key 0#64 s.nonce,
          .mac (padMessage ((List.range s.aadLen.toNat).map (aadByte c s))
            ((List.range s.dataLen.toNat).map (inByte c s))) (macKeyOf c s),
          .apply s.key s.nonce 1#64 ((List.range s.dataLen.toNat).map (inByte c s)) .ok, .commit .ok .none]

/-- DECRYPT with a wrong tag (R210, R212, R275): AUTHENTICATION_FAILURE whatever the length is to the stream cipher, no
output, and no apply transaction. -/
def Obligations.DecryptWithWrongTagReleasesNothing : Prop :=
  ∀ (c : Config) (s : State), c.wellFormed = true → Inv c s → s.phase = .idle →
    s.aadLen.toNat ≤ c.aadCap → s.dataLen.toNat ≤ c.dataCap →
    s.tagIn ≠ c.maCompute (padMessage ((List.range s.aadLen.toNat).map (aadByte c s))
      ((List.range s.dataLen.toNat).map (inByte c s))) (macKeyOf c s) →
    ∃ t, runOn c 6 (withCmdWrite c 0x2#32 s) = .next t
      ∧ CommittedWith .authenticationFailure .tagMismatch 0x2#4 t ∧ SameInputs s t ∧ outputsZero t
      ∧ t.log = s.log ++ [.accept 0x2#32, .block s.key 0#64 s.nonce,
          .mac (padMessage ((List.range s.aadLen.toNat).map (aadByte c s))
            ((List.range s.dataLen.toNat).map (inByte c s))) (macKeyOf c s),
          .commit .authenticationFailure .tagMismatch]

/-- The stream cipher's limit (R190, R210, R243): ENCRYPT, and DECRYPT once the tag is right. -/
def Obligations.StreamLimitFailsWithoutOutput : Prop :=
  ∀ (c : Config) (s : State), c.wellFormed = true → Inv c s → s.phase = .idle →
    s.aadLen.toNat ≤ c.aadCap → s.dataLen.toNat ≤ c.dataCap → 64 * c.scMaxCounter < s.dataLen.toNat →
    (∃ t, runOn c 5 (withCmdWrite c 0x1#32 s) = .next t
      ∧ CommittedWith .encryptionFailure .streamLimit 0x1#4 t ∧ SameInputs s t ∧ outputsZero t
      ∧ t.log = s.log ++ [.accept 0x1#32, .block s.key 0#64 s.nonce,
          .apply s.key s.nonce 1#64 ((List.range s.dataLen.toNat).map (inByte c s)) .streamCipherError,
          .commit .encryptionFailure .streamLimit])
    ∧ (s.tagIn = c.maCompute (padMessage ((List.range s.aadLen.toNat).map (aadByte c s))
        ((List.range s.dataLen.toNat).map (inByte c s))) (macKeyOf c s) →
      ∃ t, runOn c 7 (withCmdWrite c 0x2#32 s) = .next t
        ∧ CommittedWith .decryptionFailure .streamLimit 0x2#4 t ∧ SameInputs s t ∧ outputsZero t
        ∧ t.log = s.log ++ [.accept 0x2#32, .block s.key 0#64 s.nonce,
            .mac (padMessage ((List.range s.aadLen.toNat).map (aadByte c s))
              ((List.range s.dataLen.toNat).map (inByte c s))) (macKeyOf c s),
            .apply s.key s.nonce 1#64 ((List.range s.dataLen.toNat).map (inByte c s)) .streamCipherError,
            .commit .decryptionFailure .streamLimit])

/-- PAD from accept to commit (R154). -/
def Obligations.PadCommitsThePaddedMessage : Prop :=
  ∀ (c : Config) (s : State), c.wellFormed = true → Inv c s → s.phase = .idle →
    s.aadLen.toNat ≤ c.aadCap → s.dataLen.toNat ≤ c.dataCap →
    ru16 s.aadLen.toNat + ru16 s.dataLen.toNat + 16 ≤ c.outCap →
    ∃ t, runOn c 4 (withCmdWrite c 0x3#32 s) = .next t ∧ CommittedWith .ok .none 0x3#4 t ∧ SameInputs s t
      ∧ t.outLen.toNat = ru16 s.aadLen.toNat + ru16 s.dataLen.toNat + 16 ∧ t.tagOut = 0#128
      ∧ (List.range t.outLen.toNat).map (outByte t) =
          padMessage ((List.range s.aadLen.toNat).map (aadByte c s)) ((List.range s.dataLen.toNat).map (inByte c s))
      ∧ (∀ a, t.outLen.toNat ≤ a → outByte t a = 0#8)
      ∧ t.log = s.log ++ [.accept 0x3#32, .commit .ok .none]

/-- DERIVE_KEY from accept to commit (R171): it reads neither length and cannot fail. -/
def Obligations.DeriveKeyCommitsTheMacKey : Prop :=
  ∀ (c : Config) (s : State), c.wellFormed = true → Inv c s → s.phase = .idle →
    ∃ t, runOn c 4 (withCmdWrite c 0x4#32 s) = .next t ∧ CommittedWith .ok .none 0x4#4 t ∧ SameInputs s t
      ∧ t.outLen = 32#64 ∧ t.tagOut = 0#128
      ∧ (∀ a, outByte t a = if a < 32 then (macKeyOf c s).extractLsb' (8 * a) 8 else 0#8)
      ∧ t.log = s.log ++ [.accept 0x4#32, .block s.key 0#64 s.nonce, .commit .ok .none]

/-- Lengths beyond the capacities (R275, items 3 to 5; R272): refused in that order, with no port transaction. -/
def Obligations.LengthErrorsCommitInOrder : Prop :=
  ∀ (c : Config) (s : State) (i : Instr), c.wellFormed = true → Inv c s → s.phase = .idle → i ≠ .deriveKey →
    (c.aadCap < s.aadLen.toNat ∨ c.dataCap < s.dataLen.toNat
      ∨ (i = .pad ∧ c.outCap < ru16 s.aadLen.toNat + ru16 s.dataLen.toNat + 16)) →
    ∃ t cause, runOn c 3 (withCmdWrite c (encode i) s) = .next t
      ∧ cause = (if c.aadCap < s.aadLen.toNat then Cause.aadTooLong
          else if c.dataCap < s.dataLen.toNat then Cause.dataTooLong else Cause.padTooLong)
      ∧ CommittedWith .lengthError cause (opcodeOf (encode i)) t ∧ SameInputs s t ∧ outputsZero t
      ∧ t.log = s.log ++ [.accept (encode i), .commit .lengthError cause]

/-- R122: an illegal word is accepted, fails at CHECK, makes no port transaction and commits zero outputs. -/
def Obligations.IllegalWordsCommitIllegalCommand : Prop :=
  ∀ (c : Config) (s : State) (w : Word), c.wellFormed = true → Inv c s → s.phase = .idle →
    (w.toNat / 16 ≠ 0 ∨ w.toNat % 16 = 0 ∨ 5 ≤ w.toNat % 16) →
    ∃ t cause, runOn c 3 (withCmdWrite c w s) = .next t
      ∧ cause = (if w.toNat / 16 ≠ 0 then Cause.reservedBits else Cause.badOpcode)
      ∧ CommittedWith .illegalCommand cause (w.extractLsb' 0 4) t ∧ SameInputs s t ∧ outputsZero t
      ∧ t.log = s.log ++ [.accept w, .commit .illegalCommand cause]
      ∧ ∃ u, runOn c 1 (withCmdWrite c w s) = .next u ∧ u.busy = true ∧ outputsZero u

/-- R272: what a failed command's commit leaves. -/
def Obligations.FailedCommitLeavesZeroOutputs : Prop :=
  ∀ s : State, Inv Config.hw s → s.phase = .commit → s.result.1 ≠ .ok → s.script = [] →
    ∃ t, step s = .next t ∧ CommittedWith s.result.1 s.result.2 (opcodeOf s.cmdw) t ∧ outputsZero t
      ∧ (∀ a, outByte t a = 0#8) ∧ SameInputs s t

/-- R213: what ENCRYPT commits, DECRYPT turns back. -/
def Obligations.DecryptUndoesEncrypt : Prop :=
  ∀ (c : Config) (s t u : State), c.wellFormed = true → Inv c s → s.phase = .idle →
    runOn c 6 (withCmdWrite c 0x1#32 s) = .next t → t.phase = .idle → t.err = .ok →
    Inv c u → u.phase = .idle → u.key = s.key → u.nonce = s.nonce → u.aadLen = s.aadLen → u.dataLen = s.dataLen →
    (∀ a, a < s.aadLen.toNat → aadByte c u a = aadByte c s a) →
    (∀ a, a < s.dataLen.toNat → inByte c u a = outByte t a) → u.tagIn = t.tagOut →
    ∃ v, runOn c 7 (withCmdWrite c 0x2#32 u) = .next v ∧ CommittedWith .ok .none 0x2#4 v
      ∧ v.outLen = s.dataLen ∧ ∀ a, a < s.dataLen.toNat → outByte v a = inByte c s a

/-- R69, R193: what a CMD word commits is a function of the operands its command reads (R126), and so is how many steps it
takes: before step `n` neither block is back in IDLE. -/
def Obligations.OutputsDependOnOperandsOnly : Prop :=
  ∀ (c : Config) (s t : State) (w : Word), c.wellFormed = true → Inv c s → Inv c t →
    s.phase = .idle → t.phase = .idle → SameOperands c (decode w) s t →
    ∃ n s' t', 3 ≤ n ∧ n ≤ 7 ∧ runOn c n (withCmdWrite c w s) = .next s' ∧ runOn c n (withCmdWrite c w t) = .next t'
      ∧ s'.phase = .idle ∧ t'.phase = .idle ∧ s'.done = true ∧ t'.done = true ∧ SameOutputs s' t'
      ∧ ∀ m, 0 < m → m < n → ∃ u v, runOn c m (withCmdWrite c w s) = .next u ∧ runOn c m (withCmdWrite c w t) = .next v
          ∧ u.phase ≠ .idle ∧ v.phase ≠ .idle

/-! ### Whole-machine rules -/

/-- The invariant and verify-before-decrypt hold at reset. -/
def Obligations.InvariantsHoldAtReset : Prop := Inv Config.hw State.reset ∧ VerifyFirst State.reset

/-- Every step keeps the invariant, whatever the turn. -/
def Obligations.StepKeepsInvariant : Prop :=
  ∀ s t : State, Inv Config.hw s → step s = .next t → Inv Config.hw t

/-- R212: every step keeps "no apply transaction before the tags compared equal, and none when they do not". -/
def Obligations.StepKeepsVerifyFirst : Prop :=
  ∀ s t : State, Inv Config.hw s → VerifyFirst s → step s = .next t → VerifyFirst t

/-- The sequencer never stops in a state that meets the invariant: no command reaches a phase it has no action in (R68). In
IDLE, where R60 gives the sequencer no step, the turn is the model's own, log entry 11. -/
def Obligations.SequencerAlwaysSteps : Prop :=
  ∀ s : State, Inv Config.hw s → (s.script = [] ∨ ∃ rest, s.script = .sequencer :: rest) → ∃ t, step s = .next t

/-- R320: left to the sequencer, a running command commits within six of its steps. -/
def Obligations.EveryCommandCommitsInSixSteps : Prop :=
  ∀ s : State, Inv Config.hw s → s.busy = true → s.script = [] →
    ∃ n t, n ≤ 6 ∧ Sys2Proof.core.run n s = .next t ∧ t.phase = .idle ∧ t.done = true
      ∧ ∃ evs e cause, t.log = s.log ++ evs ++ [.commit e cause] ∧ t.err = e ∧ t.cause = cause

/-- R91, R96: while a command runs, a host access other than a soft reset changes nothing the command reads or has. -/
def Obligations.HostAccessKeepsRunningCommand : Prop :=
  ∀ (s t : State) (turn : Turn) (rest : List Turn), Inv Config.hw s → s.busy = true → s.script = turn :: rest →
    ((∃ addr, turn = .read addr) ∨ (∃ addr v, turn = .write addr v ∧ isSoftReset Config.hw addr v = false)) →
    step s = .next t → SameCommand s t

/-- R96 (b): once committed, a result stays as it is until the next accept or a reset. -/
def Obligations.CommittedResultStays : Prop :=
  ∀ s t : State, Inv Config.hw s → s.busy = false → step s = .next t → t.busy = false →
    (∀ rest, s.script ≠ .powerOnReset :: rest) →
    (∀ addr v rest, s.script = .write addr v :: rest → isSoftReset Config.hw addr v = false) →
    SameOutputs s t

/-- R96: and what a host may change does not change the command's steps, so every interleaving commits the same. -/
def Obligations.CommandIgnoresHostFields : Prop :=
  ∀ (i : Instr) (s t s' : State), SameCommand s t → exec i s = .next s' →
    ∃ t', exec i t = .next t' ∧ SameCommand s' t'

/-- R231: COMPARE is one step for every pair of tags, and only the one bit decides what follows. -/
def Obligations.CompareTakesOneStepForAllTags : Prop :=
  ∀ s t : State, s.phase = .compare → t = { s with expTag := t.expTag, tagIn := t.tagIn } →
    ctEq16 s.expTag s.tagIn = ctEq16 t.expTag t.tagIn →
    ∃ s' t', exec .decrypt s = .next s' ∧ exec .decrypt t = .next t' ∧ s'.phase ≠ .compare
      ∧ t' = { s' with expTag := t.expTag, tagIn := t.tagIn } ∧ s'.log = s.log

/-! ### The sub-units' functions -/

/-- R230: the comparator accepts exactly the tags equal in every one of the 16 bytes; its result is the OR of the 16 byte
differences compared with zero, in whatever order they are combined. -/
def Obligations.ComparatorAcceptsEqualTagsOnly : Prop :=
  ∀ x y : Tag,
    (ctEq16 x y = true ↔ ∀ i, i < 16 → x.extractLsb' (8 * i) 8 = y.extractLsb' (8 * i) 8)
    ∧ (ctEq16 x y = true ↔ x = y)
    ∧ ∀ order : List Nat, order.Perm (List.range 16) →
        ctEq16 x y = (order.foldl
          (fun acc i => acc ||| (x.extractLsb' (8 * i) 8 ^^^ y.extractLsb' (8 * i) 8)) (0#8 : Byte) == 0#8)

/-- R150, R151: rounding up to a multiple of 16, and the length encoding, least significant byte first, which determines the
number. -/
def Obligations.RoundingAndLengthEncoding : Prop :=
  ∀ n : Nat,
    (16 ∣ ru16 n ∧ n ≤ ru16 n ∧ ru16 n < n + 16)
    ∧ (n < 2 ^ 64 → (le64 n).length = 8
        ∧ (∀ (i : Nat) (b : Byte), (le64 n)[i]? = some b → b.toNat = n / 2 ^ (8 * i) % 256)
        ∧ leValue (le64 n) = n)

/-- R153, R155: the padded message's length, and each of its byte positions. -/
def Obligations.PaddedMessageLayout : Prop :=
  ∀ a d : List Byte,
    (padMessage a d).length = ru16 a.length + ru16 d.length + 16
    ∧ 16 ∣ (padMessage a d).length
    ∧ padMessage [] [] = List.replicate 16 0#8
    ∧ (∀ i, i < a.length → (padMessage a d)[i]? = a[i]?)
    ∧ (∀ i, a.length ≤ i → i < ru16 a.length → (padMessage a d)[i]? = some 0#8)
    ∧ (∀ i, i < d.length → (padMessage a d)[ru16 a.length + i]? = d[i]?)
    ∧ (∀ i, d.length ≤ i → i < ru16 d.length → (padMessage a d)[ru16 a.length + i]? = some 0#8)
    ∧ (∀ i, i < 8 → (padMessage a d)[ru16 a.length + ru16 d.length + i]? = (le64 a.length)[i]?)
    ∧ (∀ i, i < 8 → (padMessage a d)[ru16 a.length + ru16 d.length + 8 + i]? = (le64 d.length)[i]?)

/-- R242, R243, R244: the apply port's bytes and length, its failure, and that it undoes itself. -/
def Obligations.ApplyPortContract : Prop :=
  ∀ (c : Config) (k : Key) (n : Nonce) (c0 : DWord) (d : List Byte),
    (scApply c k n c0 d = none ↔ 0 < d.length ∧ c.scMaxCounter < c0.toNat + (d.length + 63) / 64 - 1)
    ∧ (scApply c k n 1#64 d = none ↔ 64 * c.scMaxCounter < d.length)
    ∧ scApply c k n c0 [] = some []
    ∧ ∀ r, scApply c k n c0 d = some r →
        r.length = d.length ∧ scApply c k n c0 r = some d
        ∧ ∀ (i : Nat) (x : Byte), d[i]? = some x →
            r[i]? = some (x ^^^ (c.scBlock k (c0 + BitVec.ofNat 64 (i / 64)) n).extractLsb' (8 * (i % 64)) 8)
end

