-- ==== Sys2Proof/Laws/State.lean ====
section
/-! SUPPORT. One lemma a field for each shared update of the state, true by definition, so that no later proof unfolds a
record update. -/

namespace Sys2Proof.Machine

/-! ### logEvent -/
@[simp] theorem logEvent_irqEn (e : Event) (s : State) : (logEvent e s).irqEn = s.irqEn := rfl
@[simp] theorem logEvent_busy (e : Event) (s : State) : (logEvent e s).busy = s.busy := rfl
@[simp] theorem logEvent_done (e : Event) (s : State) : (logEvent e s).done = s.done := rfl
@[simp] theorem logEvent_overrun (e : Event) (s : State) : (logEvent e s).overrun = s.overrun := rfl
@[simp] theorem logEvent_err (e : Event) (s : State) : (logEvent e s).err = s.err := rfl
@[simp] theorem logEvent_cause (e : Event) (s : State) : (logEvent e s).cause = s.cause := rfl
@[simp] theorem logEvent_lastOpc (e : Event) (s : State) : (logEvent e s).lastOpc = s.lastOpc := rfl
@[simp] theorem logEvent_aadLen (e : Event) (s : State) : (logEvent e s).aadLen = s.aadLen := rfl
@[simp] theorem logEvent_dataLen (e : Event) (s : State) : (logEvent e s).dataLen = s.dataLen := rfl
@[simp] theorem logEvent_outLen (e : Event) (s : State) : (logEvent e s).outLen = s.outLen := rfl
@[simp] theorem logEvent_key (e : Event) (s : State) : (logEvent e s).key = s.key := rfl
@[simp] theorem logEvent_nonce (e : Event) (s : State) : (logEvent e s).nonce = s.nonce := rfl
@[simp] theorem logEvent_tagIn (e : Event) (s : State) : (logEvent e s).tagIn = s.tagIn := rfl
@[simp] theorem logEvent_tagOut (e : Event) (s : State) : (logEvent e s).tagOut = s.tagOut := rfl
@[simp] theorem logEvent_aadMem (e : Event) (s : State) : (logEvent e s).aadMem = s.aadMem := rfl
@[simp] theorem logEvent_inMem (e : Event) (s : State) : (logEvent e s).inMem = s.inMem := rfl
@[simp] theorem logEvent_outMem (e : Event) (s : State) : (logEvent e s).outMem = s.outMem := rfl
@[simp] theorem logEvent_phase (e : Event) (s : State) : (logEvent e s).phase = s.phase := rfl
@[simp] theorem logEvent_cmdw (e : Event) (s : State) : (logEvent e s).cmdw = s.cmdw := rfl
@[simp] theorem logEvent_result (e : Event) (s : State) : (logEvent e s).result = s.result := rfl
@[simp] theorem logEvent_mackey (e : Event) (s : State) : (logEvent e s).mackey = s.mackey := rfl
@[simp] theorem logEvent_expTag (e : Event) (s : State) : (logEvent e s).expTag = s.expTag := rfl
@[simp] theorem logEvent_stage (e : Event) (s : State) : (logEvent e s).stage = s.stage := rfl
@[simp] theorem logEvent_stageLen (e : Event) (s : State) : (logEvent e s).stageLen = s.stageLen := rfl
@[simp] theorem logEvent_stageTag (e : Event) (s : State) : (logEvent e s).stageTag = s.stageTag := rfl
@[simp] theorem logEvent_log (e : Event) (s : State) : (logEvent e s).log = s.log ++ [e] := rfl
@[simp] theorem logEvent_script (e : Event) (s : State) : (logEvent e s).script = s.script := rfl
@[simp] theorem logEvent_response (e : Event) (s : State) : (logEvent e s).response = s.response := rfl
@[simp] theorem logEvent_powerOns (e : Event) (s : State) : (logEvent e s).powerOns = s.powerOns := rfl

/-! ### goTo -/
@[simp] theorem goTo_irqEn (p : Phase) (s : State) : (goTo p s).irqEn = s.irqEn := rfl
@[simp] theorem goTo_busy (p : Phase) (s : State) : (goTo p s).busy = s.busy := rfl
@[simp] theorem goTo_done (p : Phase) (s : State) : (goTo p s).done = s.done := rfl
@[simp] theorem goTo_overrun (p : Phase) (s : State) : (goTo p s).overrun = s.overrun := rfl
@[simp] theorem goTo_err (p : Phase) (s : State) : (goTo p s).err = s.err := rfl
@[simp] theorem goTo_cause (p : Phase) (s : State) : (goTo p s).cause = s.cause := rfl
@[simp] theorem goTo_lastOpc (p : Phase) (s : State) : (goTo p s).lastOpc = s.lastOpc := rfl
@[simp] theorem goTo_aadLen (p : Phase) (s : State) : (goTo p s).aadLen = s.aadLen := rfl
@[simp] theorem goTo_dataLen (p : Phase) (s : State) : (goTo p s).dataLen = s.dataLen := rfl
@[simp] theorem goTo_outLen (p : Phase) (s : State) : (goTo p s).outLen = s.outLen := rfl
@[simp] theorem goTo_key (p : Phase) (s : State) : (goTo p s).key = s.key := rfl
@[simp] theorem goTo_nonce (p : Phase) (s : State) : (goTo p s).nonce = s.nonce := rfl
@[simp] theorem goTo_tagIn (p : Phase) (s : State) : (goTo p s).tagIn = s.tagIn := rfl
@[simp] theorem goTo_tagOut (p : Phase) (s : State) : (goTo p s).tagOut = s.tagOut := rfl
@[simp] theorem goTo_aadMem (p : Phase) (s : State) : (goTo p s).aadMem = s.aadMem := rfl
@[simp] theorem goTo_inMem (p : Phase) (s : State) : (goTo p s).inMem = s.inMem := rfl
@[simp] theorem goTo_outMem (p : Phase) (s : State) : (goTo p s).outMem = s.outMem := rfl
@[simp] theorem goTo_phase (p : Phase) (s : State) : (goTo p s).phase = p := rfl
@[simp] theorem goTo_cmdw (p : Phase) (s : State) : (goTo p s).cmdw = s.cmdw := rfl
@[simp] theorem goTo_result (p : Phase) (s : State) : (goTo p s).result = s.result := rfl
@[simp] theorem goTo_mackey (p : Phase) (s : State) : (goTo p s).mackey = s.mackey := rfl
@[simp] theorem goTo_expTag (p : Phase) (s : State) : (goTo p s).expTag = s.expTag := rfl
@[simp] theorem goTo_stage (p : Phase) (s : State) : (goTo p s).stage = s.stage := rfl
@[simp] theorem goTo_stageLen (p : Phase) (s : State) : (goTo p s).stageLen = s.stageLen := rfl
@[simp] theorem goTo_stageTag (p : Phase) (s : State) : (goTo p s).stageTag = s.stageTag := rfl
@[simp] theorem goTo_log (p : Phase) (s : State) : (goTo p s).log = s.log := rfl
@[simp] theorem goTo_script (p : Phase) (s : State) : (goTo p s).script = s.script := rfl
@[simp] theorem goTo_response (p : Phase) (s : State) : (goTo p s).response = s.response := rfl
@[simp] theorem goTo_powerOns (p : Phase) (s : State) : (goTo p s).powerOns = s.powerOns := rfl

/-! ### fail -/
@[simp] theorem fail_irqEn (e : Err) (c : Cause) (s : State) : (fail e c s).irqEn = s.irqEn := rfl
@[simp] theorem fail_busy (e : Err) (c : Cause) (s : State) : (fail e c s).busy = s.busy := rfl
@[simp] theorem fail_done (e : Err) (c : Cause) (s : State) : (fail e c s).done = s.done := rfl
@[simp] theorem fail_overrun (e : Err) (c : Cause) (s : State) : (fail e c s).overrun = s.overrun := rfl
@[simp] theorem fail_err (e : Err) (c : Cause) (s : State) : (fail e c s).err = s.err := rfl
@[simp] theorem fail_cause (e : Err) (c : Cause) (s : State) : (fail e c s).cause = s.cause := rfl
@[simp] theorem fail_lastOpc (e : Err) (c : Cause) (s : State) : (fail e c s).lastOpc = s.lastOpc := rfl
@[simp] theorem fail_aadLen (e : Err) (c : Cause) (s : State) : (fail e c s).aadLen = s.aadLen := rfl
@[simp] theorem fail_dataLen (e : Err) (c : Cause) (s : State) : (fail e c s).dataLen = s.dataLen := rfl
@[simp] theorem fail_outLen (e : Err) (c : Cause) (s : State) : (fail e c s).outLen = s.outLen := rfl
@[simp] theorem fail_key (e : Err) (c : Cause) (s : State) : (fail e c s).key = s.key := rfl
@[simp] theorem fail_nonce (e : Err) (c : Cause) (s : State) : (fail e c s).nonce = s.nonce := rfl
@[simp] theorem fail_tagIn (e : Err) (c : Cause) (s : State) : (fail e c s).tagIn = s.tagIn := rfl
@[simp] theorem fail_tagOut (e : Err) (c : Cause) (s : State) : (fail e c s).tagOut = s.tagOut := rfl
@[simp] theorem fail_aadMem (e : Err) (c : Cause) (s : State) : (fail e c s).aadMem = s.aadMem := rfl
@[simp] theorem fail_inMem (e : Err) (c : Cause) (s : State) : (fail e c s).inMem = s.inMem := rfl
@[simp] theorem fail_outMem (e : Err) (c : Cause) (s : State) : (fail e c s).outMem = s.outMem := rfl
@[simp] theorem fail_phase (e : Err) (c : Cause) (s : State) : (fail e c s).phase = .commit := rfl
@[simp] theorem fail_cmdw (e : Err) (c : Cause) (s : State) : (fail e c s).cmdw = s.cmdw := rfl
@[simp] theorem fail_result (e : Err) (c : Cause) (s : State) : (fail e c s).result = (e, c) := rfl
@[simp] theorem fail_mackey (e : Err) (c : Cause) (s : State) : (fail e c s).mackey = s.mackey := rfl
@[simp] theorem fail_expTag (e : Err) (c : Cause) (s : State) : (fail e c s).expTag = s.expTag := rfl
@[simp] theorem fail_stage (e : Err) (c : Cause) (s : State) : (fail e c s).stage = s.stage := rfl
@[simp] theorem fail_stageLen (e : Err) (c : Cause) (s : State) : (fail e c s).stageLen = s.stageLen := rfl
@[simp] theorem fail_stageTag (e : Err) (c : Cause) (s : State) : (fail e c s).stageTag = s.stageTag := rfl
@[simp] theorem fail_log (e : Err) (c : Cause) (s : State) : (fail e c s).log = s.log := rfl
@[simp] theorem fail_script (e : Err) (c : Cause) (s : State) : (fail e c s).script = s.script := rfl
@[simp] theorem fail_response (e : Err) (c : Cause) (s : State) : (fail e c s).response = s.response := rfl
@[simp] theorem fail_powerOns (e : Err) (c : Cause) (s : State) : (fail e c s).powerOns = s.powerOns := rfl

/-! ### accept -/
@[simp] theorem accept_irqEn (w : Word) (s : State) : (accept w s).irqEn = s.irqEn := rfl
@[simp] theorem accept_busy (w : Word) (s : State) : (accept w s).busy = true := rfl
@[simp] theorem accept_done (w : Word) (s : State) : (accept w s).done = false := rfl
@[simp] theorem accept_overrun (w : Word) (s : State) : (accept w s).overrun = s.overrun := rfl
@[simp] theorem accept_err (w : Word) (s : State) : (accept w s).err = .ok := rfl
@[simp] theorem accept_cause (w : Word) (s : State) : (accept w s).cause = .none := rfl
@[simp] theorem accept_lastOpc (w : Word) (s : State) : (accept w s).lastOpc = opcodeOf w := rfl
@[simp] theorem accept_aadLen (w : Word) (s : State) : (accept w s).aadLen = s.aadLen := rfl
@[simp] theorem accept_dataLen (w : Word) (s : State) : (accept w s).dataLen = s.dataLen := rfl
@[simp] theorem accept_outLen (w : Word) (s : State) : (accept w s).outLen = 0#64 := rfl
@[simp] theorem accept_key (w : Word) (s : State) : (accept w s).key = s.key := rfl
@[simp] theorem accept_nonce (w : Word) (s : State) : (accept w s).nonce = s.nonce := rfl
@[simp] theorem accept_tagIn (w : Word) (s : State) : (accept w s).tagIn = s.tagIn := rfl
@[simp] theorem accept_tagOut (w : Word) (s : State) : (accept w s).tagOut = 0#128 := rfl
@[simp] theorem accept_aadMem (w : Word) (s : State) : (accept w s).aadMem = s.aadMem := rfl
@[simp] theorem accept_inMem (w : Word) (s : State) : (accept w s).inMem = s.inMem := rfl
@[simp] theorem accept_outMem (w : Word) (s : State) : (accept w s).outMem = [] := rfl
@[simp] theorem accept_phase (w : Word) (s : State) : (accept w s).phase = .check := rfl
@[simp] theorem accept_cmdw (w : Word) (s : State) : (accept w s).cmdw = w := rfl
@[simp] theorem accept_result (w : Word) (s : State) : (accept w s).result = (.ok, .none) := rfl
@[simp] theorem accept_mackey (w : Word) (s : State) : (accept w s).mackey = s.mackey := rfl
@[simp] theorem accept_expTag (w : Word) (s : State) : (accept w s).expTag = s.expTag := rfl
@[simp] theorem accept_stage (w : Word) (s : State) : (accept w s).stage = s.stage := rfl
@[simp] theorem accept_stageLen (w : Word) (s : State) : (accept w s).stageLen = s.stageLen := rfl
@[simp] theorem accept_stageTag (w : Word) (s : State) : (accept w s).stageTag = s.stageTag := rfl
@[simp] theorem accept_log (w : Word) (s : State) : (accept w s).log = s.log ++ [.accept w] := rfl
@[simp] theorem accept_script (w : Word) (s : State) : (accept w s).script = s.script := rfl
@[simp] theorem accept_response (w : Word) (s : State) : (accept w s).response = s.response := rfl
@[simp] theorem accept_powerOns (w : Word) (s : State) : (accept w s).powerOns = s.powerOns := rfl

/-! ### publish -/
@[simp] theorem publish_irqEn (s : State) : (publish s).irqEn = s.irqEn := rfl
@[simp] theorem publish_busy (s : State) : (publish s).busy = s.busy := rfl
@[simp] theorem publish_done (s : State) : (publish s).done = s.done := rfl
@[simp] theorem publish_overrun (s : State) : (publish s).overrun = s.overrun := rfl
@[simp] theorem publish_err (s : State) : (publish s).err = s.err := rfl
@[simp] theorem publish_cause (s : State) : (publish s).cause = s.cause := rfl
@[simp] theorem publish_lastOpc (s : State) : (publish s).lastOpc = s.lastOpc := rfl
@[simp] theorem publish_aadLen (s : State) : (publish s).aadLen = s.aadLen := rfl
@[simp] theorem publish_dataLen (s : State) : (publish s).dataLen = s.dataLen := rfl
@[simp] theorem publish_outLen (s : State) : (publish s).outLen = BitVec.ofNat 64 s.stageLen := rfl
@[simp] theorem publish_key (s : State) : (publish s).key = s.key := rfl
@[simp] theorem publish_nonce (s : State) : (publish s).nonce = s.nonce := rfl
@[simp] theorem publish_tagIn (s : State) : (publish s).tagIn = s.tagIn := rfl
@[simp] theorem publish_tagOut (s : State) : (publish s).tagOut = s.stageTag := rfl
@[simp] theorem publish_aadMem (s : State) : (publish s).aadMem = s.aadMem := rfl
@[simp] theorem publish_inMem (s : State) : (publish s).inMem = s.inMem := rfl
@[simp] theorem publish_outMem (s : State) : (publish s).outMem = Memory.writeBytes zeroUnlisted s.outMem 0 (stageBytes s s.stageLen) := rfl
@[simp] theorem publish_phase (s : State) : (publish s).phase = s.phase := rfl
@[simp] theorem publish_cmdw (s : State) : (publish s).cmdw = s.cmdw := rfl
@[simp] theorem publish_result (s : State) : (publish s).result = s.result := rfl
@[simp] theorem publish_mackey (s : State) : (publish s).mackey = s.mackey := rfl
@[simp] theorem publish_expTag (s : State) : (publish s).expTag = s.expTag := rfl
@[simp] theorem publish_stage (s : State) : (publish s).stage = s.stage := rfl
@[simp] theorem publish_stageLen (s : State) : (publish s).stageLen = s.stageLen := rfl
@[simp] theorem publish_stageTag (s : State) : (publish s).stageTag = s.stageTag := rfl
@[simp] theorem publish_log (s : State) : (publish s).log = s.log := rfl
@[simp] theorem publish_script (s : State) : (publish s).script = s.script := rfl
@[simp] theorem publish_response (s : State) : (publish s).response = s.response := rfl
@[simp] theorem publish_powerOns (s : State) : (publish s).powerOns = s.powerOns := rfl

/-! ### settle -/
@[simp] theorem settle_irqEn (e : Err) (c : Cause) (s : State) : (settle e c s).irqEn = s.irqEn := rfl
@[simp] theorem settle_busy (e : Err) (c : Cause) (s : State) : (settle e c s).busy = false := rfl
@[simp] theorem settle_done (e : Err) (c : Cause) (s : State) : (settle e c s).done = true := rfl
@[simp] theorem settle_overrun (e : Err) (c : Cause) (s : State) : (settle e c s).overrun = s.overrun := rfl
@[simp] theorem settle_err (e : Err) (c : Cause) (s : State) : (settle e c s).err = e := rfl
@[simp] theorem settle_cause (e : Err) (c : Cause) (s : State) : (settle e c s).cause = c := rfl
@[simp] theorem settle_lastOpc (e : Err) (c : Cause) (s : State) : (settle e c s).lastOpc = s.lastOpc := rfl
@[simp] theorem settle_aadLen (e : Err) (c : Cause) (s : State) : (settle e c s).aadLen = s.aadLen := rfl
@[simp] theorem settle_dataLen (e : Err) (c : Cause) (s : State) : (settle e c s).dataLen = s.dataLen := rfl
@[simp] theorem settle_outLen (e : Err) (c : Cause) (s : State) : (settle e c s).outLen = s.outLen := rfl
@[simp] theorem settle_key (e : Err) (c : Cause) (s : State) : (settle e c s).key = s.key := rfl
@[simp] theorem settle_nonce (e : Err) (c : Cause) (s : State) : (settle e c s).nonce = s.nonce := rfl
@[simp] theorem settle_tagIn (e : Err) (c : Cause) (s : State) : (settle e c s).tagIn = s.tagIn := rfl
@[simp] theorem settle_tagOut (e : Err) (c : Cause) (s : State) : (settle e c s).tagOut = s.tagOut := rfl
@[simp] theorem settle_aadMem (e : Err) (c : Cause) (s : State) : (settle e c s).aadMem = s.aadMem := rfl
@[simp] theorem settle_inMem (e : Err) (c : Cause) (s : State) : (settle e c s).inMem = s.inMem := rfl
@[simp] theorem settle_outMem (e : Err) (c : Cause) (s : State) : (settle e c s).outMem = s.outMem := rfl
@[simp] theorem settle_phase (e : Err) (c : Cause) (s : State) : (settle e c s).phase = .idle := rfl
@[simp] theorem settle_cmdw (e : Err) (c : Cause) (s : State) : (settle e c s).cmdw = 0#32 := rfl
@[simp] theorem settle_result (e : Err) (c : Cause) (s : State) : (settle e c s).result = (.ok, .none) := rfl
@[simp] theorem settle_mackey (e : Err) (c : Cause) (s : State) : (settle e c s).mackey = 0#256 := rfl
@[simp] theorem settle_expTag (e : Err) (c : Cause) (s : State) : (settle e c s).expTag = 0#128 := rfl
@[simp] theorem settle_stage (e : Err) (c : Cause) (s : State) : (settle e c s).stage = [] := rfl
@[simp] theorem settle_stageLen (e : Err) (c : Cause) (s : State) : (settle e c s).stageLen = 0 := rfl
@[simp] theorem settle_stageTag (e : Err) (c : Cause) (s : State) : (settle e c s).stageTag = 0#128 := rfl
@[simp] theorem settle_log (e : Err) (c : Cause) (s : State) : (settle e c s).log = s.log ++ [.commit e c] := rfl
@[simp] theorem settle_script (e : Err) (c : Cause) (s : State) : (settle e c s).script = s.script := rfl
@[simp] theorem settle_response (e : Err) (c : Cause) (s : State) : (settle e c s).response = s.response := rfl
@[simp] theorem settle_powerOns (e : Err) (c : Cause) (s : State) : (settle e c s).powerOns = s.powerOns := rfl

/-! ### putStage -/
@[simp] theorem putStage_irqEn (bs : List Byte) (s : State) : (putStage bs s).irqEn = s.irqEn := rfl
@[simp] theorem putStage_busy (bs : List Byte) (s : State) : (putStage bs s).busy = s.busy := rfl
@[simp] theorem putStage_done (bs : List Byte) (s : State) : (putStage bs s).done = s.done := rfl
@[simp] theorem putStage_overrun (bs : List Byte) (s : State) : (putStage bs s).overrun = s.overrun := rfl
@[simp] theorem putStage_err (bs : List Byte) (s : State) : (putStage bs s).err = s.err := rfl
@[simp] theorem putStage_cause (bs : List Byte) (s : State) : (putStage bs s).cause = s.cause := rfl
@[simp] theorem putStage_lastOpc (bs : List Byte) (s : State) : (putStage bs s).lastOpc = s.lastOpc := rfl
@[simp] theorem putStage_aadLen (bs : List Byte) (s : State) : (putStage bs s).aadLen = s.aadLen := rfl
@[simp] theorem putStage_dataLen (bs : List Byte) (s : State) : (putStage bs s).dataLen = s.dataLen := rfl
@[simp] theorem putStage_outLen (bs : List Byte) (s : State) : (putStage bs s).outLen = s.outLen := rfl
@[simp] theorem putStage_key (bs : List Byte) (s : State) : (putStage bs s).key = s.key := rfl
@[simp] theorem putStage_nonce (bs : List Byte) (s : State) : (putStage bs s).nonce = s.nonce := rfl
@[simp] theorem putStage_tagIn (bs : List Byte) (s : State) : (putStage bs s).tagIn = s.tagIn := rfl
@[simp] theorem putStage_tagOut (bs : List Byte) (s : State) : (putStage bs s).tagOut = s.tagOut := rfl
@[simp] theorem putStage_aadMem (bs : List Byte) (s : State) : (putStage bs s).aadMem = s.aadMem := rfl
@[simp] theorem putStage_inMem (bs : List Byte) (s : State) : (putStage bs s).inMem = s.inMem := rfl
@[simp] theorem putStage_outMem (bs : List Byte) (s : State) : (putStage bs s).outMem = s.outMem := rfl
@[simp] theorem putStage_phase (bs : List Byte) (s : State) : (putStage bs s).phase = s.phase := rfl
@[simp] theorem putStage_cmdw (bs : List Byte) (s : State) : (putStage bs s).cmdw = s.cmdw := rfl
@[simp] theorem putStage_result (bs : List Byte) (s : State) : (putStage bs s).result = s.result := rfl
@[simp] theorem putStage_mackey (bs : List Byte) (s : State) : (putStage bs s).mackey = s.mackey := rfl
@[simp] theorem putStage_expTag (bs : List Byte) (s : State) : (putStage bs s).expTag = s.expTag := rfl
@[simp] theorem putStage_stage (bs : List Byte) (s : State) : (putStage bs s).stage = Memory.writeBytes zeroUnlisted s.stage 0 bs := rfl
@[simp] theorem putStage_stageLen (bs : List Byte) (s : State) : (putStage bs s).stageLen = bs.length := rfl
@[simp] theorem putStage_stageTag (bs : List Byte) (s : State) : (putStage bs s).stageTag = s.stageTag := rfl
@[simp] theorem putStage_log (bs : List Byte) (s : State) : (putStage bs s).log = s.log := rfl
@[simp] theorem putStage_script (bs : List Byte) (s : State) : (putStage bs s).script = s.script := rfl
@[simp] theorem putStage_response (bs : List Byte) (s : State) : (putStage bs s).response = s.response := rfl
@[simp] theorem putStage_powerOns (bs : List Byte) (s : State) : (putStage bs s).powerOns = s.powerOns := rfl

/-! ### keygen -/
@[simp] theorem keygen_irqEn (c : Config) (s : State) : (keygen c s).irqEn = s.irqEn := rfl
@[simp] theorem keygen_busy (c : Config) (s : State) : (keygen c s).busy = s.busy := rfl
@[simp] theorem keygen_done (c : Config) (s : State) : (keygen c s).done = s.done := rfl
@[simp] theorem keygen_overrun (c : Config) (s : State) : (keygen c s).overrun = s.overrun := rfl
@[simp] theorem keygen_err (c : Config) (s : State) : (keygen c s).err = s.err := rfl
@[simp] theorem keygen_cause (c : Config) (s : State) : (keygen c s).cause = s.cause := rfl
@[simp] theorem keygen_lastOpc (c : Config) (s : State) : (keygen c s).lastOpc = s.lastOpc := rfl
@[simp] theorem keygen_aadLen (c : Config) (s : State) : (keygen c s).aadLen = s.aadLen := rfl
@[simp] theorem keygen_dataLen (c : Config) (s : State) : (keygen c s).dataLen = s.dataLen := rfl
@[simp] theorem keygen_outLen (c : Config) (s : State) : (keygen c s).outLen = s.outLen := rfl
@[simp] theorem keygen_key (c : Config) (s : State) : (keygen c s).key = s.key := rfl
@[simp] theorem keygen_nonce (c : Config) (s : State) : (keygen c s).nonce = s.nonce := rfl
@[simp] theorem keygen_tagIn (c : Config) (s : State) : (keygen c s).tagIn = s.tagIn := rfl
@[simp] theorem keygen_tagOut (c : Config) (s : State) : (keygen c s).tagOut = s.tagOut := rfl
@[simp] theorem keygen_aadMem (c : Config) (s : State) : (keygen c s).aadMem = s.aadMem := rfl
@[simp] theorem keygen_inMem (c : Config) (s : State) : (keygen c s).inMem = s.inMem := rfl
@[simp] theorem keygen_outMem (c : Config) (s : State) : (keygen c s).outMem = s.outMem := rfl
@[simp] theorem keygen_phase (c : Config) (s : State) : (keygen c s).phase = s.phase := rfl
@[simp] theorem keygen_cmdw (c : Config) (s : State) : (keygen c s).cmdw = s.cmdw := rfl
@[simp] theorem keygen_result (c : Config) (s : State) : (keygen c s).result = s.result := rfl
@[simp] theorem keygen_mackey (c : Config) (s : State) : (keygen c s).mackey = (c.scBlock s.key 0#64 s.nonce).extractLsb' 0 256 := rfl
@[simp] theorem keygen_expTag (c : Config) (s : State) : (keygen c s).expTag = s.expTag := rfl
@[simp] theorem keygen_stage (c : Config) (s : State) : (keygen c s).stage = s.stage := rfl
@[simp] theorem keygen_stageLen (c : Config) (s : State) : (keygen c s).stageLen = s.stageLen := rfl
@[simp] theorem keygen_stageTag (c : Config) (s : State) : (keygen c s).stageTag = s.stageTag := rfl
@[simp] theorem keygen_log (c : Config) (s : State) : (keygen c s).log = s.log ++ [.block s.key 0#64 s.nonce] := rfl
@[simp] theorem keygen_script (c : Config) (s : State) : (keygen c s).script = s.script := rfl
@[simp] theorem keygen_response (c : Config) (s : State) : (keygen c s).response = s.response := rfl
@[simp] theorem keygen_powerOns (c : Config) (s : State) : (keygen c s).powerOns = s.powerOns := rfl

/-! ### statusWrite -/
@[simp] theorem statusWrite_irqEn (w : Word) (s : State) : (statusWrite w s).irqEn = s.irqEn := rfl
@[simp] theorem statusWrite_busy (w : Word) (s : State) : (statusWrite w s).busy = s.busy := rfl
@[simp] theorem statusWrite_done (w : Word) (s : State) : (statusWrite w s).done = (s.done && !w.getLsbD 1) := rfl
@[simp] theorem statusWrite_overrun (w : Word) (s : State) : (statusWrite w s).overrun = (s.overrun && !w.getLsbD 2) := rfl
@[simp] theorem statusWrite_err (w : Word) (s : State) : (statusWrite w s).err = s.err := rfl
@[simp] theorem statusWrite_cause (w : Word) (s : State) : (statusWrite w s).cause = s.cause := rfl
@[simp] theorem statusWrite_lastOpc (w : Word) (s : State) : (statusWrite w s).lastOpc = s.lastOpc := rfl
@[simp] theorem statusWrite_aadLen (w : Word) (s : State) : (statusWrite w s).aadLen = s.aadLen := rfl
@[simp] theorem statusWrite_dataLen (w : Word) (s : State) : (statusWrite w s).dataLen = s.dataLen := rfl
@[simp] theorem statusWrite_outLen (w : Word) (s : State) : (statusWrite w s).outLen = s.outLen := rfl
@[simp] theorem statusWrite_key (w : Word) (s : State) : (statusWrite w s).key = s.key := rfl
@[simp] theorem statusWrite_nonce (w : Word) (s : State) : (statusWrite w s).nonce = s.nonce := rfl
@[simp] theorem statusWrite_tagIn (w : Word) (s : State) : (statusWrite w s).tagIn = s.tagIn := rfl
@[simp] theorem statusWrite_tagOut (w : Word) (s : State) : (statusWrite w s).tagOut = s.tagOut := rfl
@[simp] theorem statusWrite_aadMem (w : Word) (s : State) : (statusWrite w s).aadMem = s.aadMem := rfl
@[simp] theorem statusWrite_inMem (w : Word) (s : State) : (statusWrite w s).inMem = s.inMem := rfl
@[simp] theorem statusWrite_outMem (w : Word) (s : State) : (statusWrite w s).outMem = s.outMem := rfl
@[simp] theorem statusWrite_phase (w : Word) (s : State) : (statusWrite w s).phase = s.phase := rfl
@[simp] theorem statusWrite_cmdw (w : Word) (s : State) : (statusWrite w s).cmdw = s.cmdw := rfl
@[simp] theorem statusWrite_result (w : Word) (s : State) : (statusWrite w s).result = s.result := rfl
@[simp] theorem statusWrite_mackey (w : Word) (s : State) : (statusWrite w s).mackey = s.mackey := rfl
@[simp] theorem statusWrite_expTag (w : Word) (s : State) : (statusWrite w s).expTag = s.expTag := rfl
@[simp] theorem statusWrite_stage (w : Word) (s : State) : (statusWrite w s).stage = s.stage := rfl
@[simp] theorem statusWrite_stageLen (w : Word) (s : State) : (statusWrite w s).stageLen = s.stageLen := rfl
@[simp] theorem statusWrite_stageTag (w : Word) (s : State) : (statusWrite w s).stageTag = s.stageTag := rfl
@[simp] theorem statusWrite_log (w : Word) (s : State) : (statusWrite w s).log = s.log := rfl
@[simp] theorem statusWrite_script (w : Word) (s : State) : (statusWrite w s).script = s.script := rfl
@[simp] theorem statusWrite_response (w : Word) (s : State) : (statusWrite w s).response = s.response := rfl
@[simp] theorem statusWrite_powerOns (w : Word) (s : State) : (statusWrite w s).powerOns = s.powerOns := rfl

/-! ### softReset -/
@[simp] theorem softReset_irqEn (s : State) : (softReset s).irqEn = false := rfl
@[simp] theorem softReset_busy (s : State) : (softReset s).busy = false := rfl
@[simp] theorem softReset_done (s : State) : (softReset s).done = false := rfl
@[simp] theorem softReset_overrun (s : State) : (softReset s).overrun = false := rfl
@[simp] theorem softReset_err (s : State) : (softReset s).err = .ok := rfl
@[simp] theorem softReset_cause (s : State) : (softReset s).cause = .none := rfl
@[simp] theorem softReset_lastOpc (s : State) : (softReset s).lastOpc = 0#4 := rfl
@[simp] theorem softReset_aadLen (s : State) : (softReset s).aadLen = 0#64 := rfl
@[simp] theorem softReset_dataLen (s : State) : (softReset s).dataLen = 0#64 := rfl
@[simp] theorem softReset_outLen (s : State) : (softReset s).outLen = 0#64 := rfl
@[simp] theorem softReset_key (s : State) : (softReset s).key = 0#256 := rfl
@[simp] theorem softReset_nonce (s : State) : (softReset s).nonce = 0#96 := rfl
@[simp] theorem softReset_tagIn (s : State) : (softReset s).tagIn = 0#128 := rfl
@[simp] theorem softReset_tagOut (s : State) : (softReset s).tagOut = 0#128 := rfl
@[simp] theorem softReset_aadMem (s : State) : (softReset s).aadMem = s.aadMem := rfl
@[simp] theorem softReset_inMem (s : State) : (softReset s).inMem = s.inMem := rfl
@[simp] theorem softReset_outMem (s : State) : (softReset s).outMem = [] := rfl
@[simp] theorem softReset_phase (s : State) : (softReset s).phase = .idle := rfl
@[simp] theorem softReset_cmdw (s : State) : (softReset s).cmdw = 0#32 := rfl
@[simp] theorem softReset_result (s : State) : (softReset s).result = (.ok, .none) := rfl
@[simp] theorem softReset_mackey (s : State) : (softReset s).mackey = 0#256 := rfl
@[simp] theorem softReset_expTag (s : State) : (softReset s).expTag = 0#128 := rfl
@[simp] theorem softReset_stage (s : State) : (softReset s).stage = [] := rfl
@[simp] theorem softReset_stageLen (s : State) : (softReset s).stageLen = 0 := rfl
@[simp] theorem softReset_stageTag (s : State) : (softReset s).stageTag = 0#128 := rfl
@[simp] theorem softReset_log (s : State) : (softReset s).log = (if s.busy then s.log ++ [.abort] else s.log) := rfl
@[simp] theorem softReset_script (s : State) : (softReset s).script = s.script := rfl
@[simp] theorem softReset_response (s : State) : (softReset s).response = s.response := rfl
@[simp] theorem softReset_powerOns (s : State) : (softReset s).powerOns = s.powerOns := rfl

/-! ### powerOnReset -/
@[simp] theorem powerOnReset_irqEn (s : State) : (powerOnReset s).irqEn = false := rfl
@[simp] theorem powerOnReset_busy (s : State) : (powerOnReset s).busy = false := rfl
@[simp] theorem powerOnReset_done (s : State) : (powerOnReset s).done = false := rfl
@[simp] theorem powerOnReset_overrun (s : State) : (powerOnReset s).overrun = false := rfl
@[simp] theorem powerOnReset_err (s : State) : (powerOnReset s).err = .ok := rfl
@[simp] theorem powerOnReset_cause (s : State) : (powerOnReset s).cause = .none := rfl
@[simp] theorem powerOnReset_lastOpc (s : State) : (powerOnReset s).lastOpc = 0#4 := rfl
@[simp] theorem powerOnReset_aadLen (s : State) : (powerOnReset s).aadLen = 0#64 := rfl
@[simp] theorem powerOnReset_dataLen (s : State) : (powerOnReset s).dataLen = 0#64 := rfl
@[simp] theorem powerOnReset_outLen (s : State) : (powerOnReset s).outLen = 0#64 := rfl
@[simp] theorem powerOnReset_key (s : State) : (powerOnReset s).key = 0#256 := rfl
@[simp] theorem powerOnReset_nonce (s : State) : (powerOnReset s).nonce = 0#96 := rfl
@[simp] theorem powerOnReset_tagIn (s : State) : (powerOnReset s).tagIn = 0#128 := rfl
@[simp] theorem powerOnReset_tagOut (s : State) : (powerOnReset s).tagOut = 0#128 := rfl
@[simp] theorem powerOnReset_aadMem (s : State) : (powerOnReset s).aadMem = [] := rfl
@[simp] theorem powerOnReset_inMem (s : State) : (powerOnReset s).inMem = [] := rfl
@[simp] theorem powerOnReset_outMem (s : State) : (powerOnReset s).outMem = [] := rfl
@[simp] theorem powerOnReset_phase (s : State) : (powerOnReset s).phase = .idle := rfl
@[simp] theorem powerOnReset_cmdw (s : State) : (powerOnReset s).cmdw = 0#32 := rfl
@[simp] theorem powerOnReset_result (s : State) : (powerOnReset s).result = (.ok, .none) := rfl
@[simp] theorem powerOnReset_mackey (s : State) : (powerOnReset s).mackey = 0#256 := rfl
@[simp] theorem powerOnReset_expTag (s : State) : (powerOnReset s).expTag = 0#128 := rfl
@[simp] theorem powerOnReset_stage (s : State) : (powerOnReset s).stage = [] := rfl
@[simp] theorem powerOnReset_stageLen (s : State) : (powerOnReset s).stageLen = 0 := rfl
@[simp] theorem powerOnReset_stageTag (s : State) : (powerOnReset s).stageTag = 0#128 := rfl
@[simp] theorem powerOnReset_log (s : State) : (powerOnReset s).log = [] := rfl
@[simp] theorem powerOnReset_script (s : State) : (powerOnReset s).script = s.script := rfl
@[simp] theorem powerOnReset_response (s : State) : (powerOnReset s).response = .none := rfl
@[simp] theorem powerOnReset_powerOns (s : State) : (powerOnReset s).powerOns = s.powerOns + 1 := rfl

/-! ### respond -/
@[simp] theorem respond_irqEn (r : Response) (s : State) : (respond r s).irqEn = s.irqEn := rfl
@[simp] theorem respond_busy (r : Response) (s : State) : (respond r s).busy = s.busy := rfl
@[simp] theorem respond_done (r : Response) (s : State) : (respond r s).done = s.done := rfl
@[simp] theorem respond_overrun (r : Response) (s : State) : (respond r s).overrun = s.overrun := rfl
@[simp] theorem respond_err (r : Response) (s : State) : (respond r s).err = s.err := rfl
@[simp] theorem respond_cause (r : Response) (s : State) : (respond r s).cause = s.cause := rfl
@[simp] theorem respond_lastOpc (r : Response) (s : State) : (respond r s).lastOpc = s.lastOpc := rfl
@[simp] theorem respond_aadLen (r : Response) (s : State) : (respond r s).aadLen = s.aadLen := rfl
@[simp] theorem respond_dataLen (r : Response) (s : State) : (respond r s).dataLen = s.dataLen := rfl
@[simp] theorem respond_outLen (r : Response) (s : State) : (respond r s).outLen = s.outLen := rfl
@[simp] theorem respond_key (r : Response) (s : State) : (respond r s).key = s.key := rfl
@[simp] theorem respond_nonce (r : Response) (s : State) : (respond r s).nonce = s.nonce := rfl
@[simp] theorem respond_tagIn (r : Response) (s : State) : (respond r s).tagIn = s.tagIn := rfl
@[simp] theorem respond_tagOut (r : Response) (s : State) : (respond r s).tagOut = s.tagOut := rfl
@[simp] theorem respond_aadMem (r : Response) (s : State) : (respond r s).aadMem = s.aadMem := rfl
@[simp] theorem respond_inMem (r : Response) (s : State) : (respond r s).inMem = s.inMem := rfl
@[simp] theorem respond_outMem (r : Response) (s : State) : (respond r s).outMem = s.outMem := rfl
@[simp] theorem respond_phase (r : Response) (s : State) : (respond r s).phase = s.phase := rfl
@[simp] theorem respond_cmdw (r : Response) (s : State) : (respond r s).cmdw = s.cmdw := rfl
@[simp] theorem respond_result (r : Response) (s : State) : (respond r s).result = s.result := rfl
@[simp] theorem respond_mackey (r : Response) (s : State) : (respond r s).mackey = s.mackey := rfl
@[simp] theorem respond_expTag (r : Response) (s : State) : (respond r s).expTag = s.expTag := rfl
@[simp] theorem respond_stage (r : Response) (s : State) : (respond r s).stage = s.stage := rfl
@[simp] theorem respond_stageLen (r : Response) (s : State) : (respond r s).stageLen = s.stageLen := rfl
@[simp] theorem respond_stageTag (r : Response) (s : State) : (respond r s).stageTag = s.stageTag := rfl
@[simp] theorem respond_log (r : Response) (s : State) : (respond r s).log = s.log := rfl
@[simp] theorem respond_script (r : Response) (s : State) : (respond r s).script = s.script := rfl
@[simp] theorem respond_response (r : Response) (s : State) : (respond r s).response = r := rfl
@[simp] theorem respond_powerOns (r : Response) (s : State) : (respond r s).powerOns = s.powerOns := rfl

/-! ### setScript -/
@[simp] theorem setScript_irqEn (l : List Turn) (s : State) : (setScript l s).irqEn = s.irqEn := rfl
@[simp] theorem setScript_busy (l : List Turn) (s : State) : (setScript l s).busy = s.busy := rfl
@[simp] theorem setScript_done (l : List Turn) (s : State) : (setScript l s).done = s.done := rfl
@[simp] theorem setScript_overrun (l : List Turn) (s : State) : (setScript l s).overrun = s.overrun := rfl
@[simp] theorem setScript_err (l : List Turn) (s : State) : (setScript l s).err = s.err := rfl
@[simp] theorem setScript_cause (l : List Turn) (s : State) : (setScript l s).cause = s.cause := rfl
@[simp] theorem setScript_lastOpc (l : List Turn) (s : State) : (setScript l s).lastOpc = s.lastOpc := rfl
@[simp] theorem setScript_aadLen (l : List Turn) (s : State) : (setScript l s).aadLen = s.aadLen := rfl
@[simp] theorem setScript_dataLen (l : List Turn) (s : State) : (setScript l s).dataLen = s.dataLen := rfl
@[simp] theorem setScript_outLen (l : List Turn) (s : State) : (setScript l s).outLen = s.outLen := rfl
@[simp] theorem setScript_key (l : List Turn) (s : State) : (setScript l s).key = s.key := rfl
@[simp] theorem setScript_nonce (l : List Turn) (s : State) : (setScript l s).nonce = s.nonce := rfl
@[simp] theorem setScript_tagIn (l : List Turn) (s : State) : (setScript l s).tagIn = s.tagIn := rfl
@[simp] theorem setScript_tagOut (l : List Turn) (s : State) : (setScript l s).tagOut = s.tagOut := rfl
@[simp] theorem setScript_aadMem (l : List Turn) (s : State) : (setScript l s).aadMem = s.aadMem := rfl
@[simp] theorem setScript_inMem (l : List Turn) (s : State) : (setScript l s).inMem = s.inMem := rfl
@[simp] theorem setScript_outMem (l : List Turn) (s : State) : (setScript l s).outMem = s.outMem := rfl
@[simp] theorem setScript_phase (l : List Turn) (s : State) : (setScript l s).phase = s.phase := rfl
@[simp] theorem setScript_cmdw (l : List Turn) (s : State) : (setScript l s).cmdw = s.cmdw := rfl
@[simp] theorem setScript_result (l : List Turn) (s : State) : (setScript l s).result = s.result := rfl
@[simp] theorem setScript_mackey (l : List Turn) (s : State) : (setScript l s).mackey = s.mackey := rfl
@[simp] theorem setScript_expTag (l : List Turn) (s : State) : (setScript l s).expTag = s.expTag := rfl
@[simp] theorem setScript_stage (l : List Turn) (s : State) : (setScript l s).stage = s.stage := rfl
@[simp] theorem setScript_stageLen (l : List Turn) (s : State) : (setScript l s).stageLen = s.stageLen := rfl
@[simp] theorem setScript_stageTag (l : List Turn) (s : State) : (setScript l s).stageTag = s.stageTag := rfl
@[simp] theorem setScript_log (l : List Turn) (s : State) : (setScript l s).log = s.log := rfl
@[simp] theorem setScript_script (l : List Turn) (s : State) : (setScript l s).script = l := rfl
@[simp] theorem setScript_response (l : List Turn) (s : State) : (setScript l s).response = s.response := rfl
@[simp] theorem setScript_powerOns (l : List Turn) (s : State) : (setScript l s).powerOns = s.powerOns := rfl

/-! ### setStageTag -/
@[simp] theorem setStageTag_irqEn (t : Tag) (s : State) : (setStageTag t s).irqEn = s.irqEn := rfl
@[simp] theorem setStageTag_busy (t : Tag) (s : State) : (setStageTag t s).busy = s.busy := rfl
@[simp] theorem setStageTag_done (t : Tag) (s : State) : (setStageTag t s).done = s.done := rfl
@[simp] theorem setStageTag_overrun (t : Tag) (s : State) : (setStageTag t s).overrun = s.overrun := rfl
@[simp] theorem setStageTag_err (t : Tag) (s : State) : (setStageTag t s).err = s.err := rfl
@[simp] theorem setStageTag_cause (t : Tag) (s : State) : (setStageTag t s).cause = s.cause := rfl
@[simp] theorem setStageTag_lastOpc (t : Tag) (s : State) : (setStageTag t s).lastOpc = s.lastOpc := rfl
@[simp] theorem setStageTag_aadLen (t : Tag) (s : State) : (setStageTag t s).aadLen = s.aadLen := rfl
@[simp] theorem setStageTag_dataLen (t : Tag) (s : State) : (setStageTag t s).dataLen = s.dataLen := rfl
@[simp] theorem setStageTag_outLen (t : Tag) (s : State) : (setStageTag t s).outLen = s.outLen := rfl
@[simp] theorem setStageTag_key (t : Tag) (s : State) : (setStageTag t s).key = s.key := rfl
@[simp] theorem setStageTag_nonce (t : Tag) (s : State) : (setStageTag t s).nonce = s.nonce := rfl
@[simp] theorem setStageTag_tagIn (t : Tag) (s : State) : (setStageTag t s).tagIn = s.tagIn := rfl
@[simp] theorem setStageTag_tagOut (t : Tag) (s : State) : (setStageTag t s).tagOut = s.tagOut := rfl
@[simp] theorem setStageTag_aadMem (t : Tag) (s : State) : (setStageTag t s).aadMem = s.aadMem := rfl
@[simp] theorem setStageTag_inMem (t : Tag) (s : State) : (setStageTag t s).inMem = s.inMem := rfl
@[simp] theorem setStageTag_outMem (t : Tag) (s : State) : (setStageTag t s).outMem = s.outMem := rfl
@[simp] theorem setStageTag_phase (t : Tag) (s : State) : (setStageTag t s).phase = s.phase := rfl
@[simp] theorem setStageTag_cmdw (t : Tag) (s : State) : (setStageTag t s).cmdw = s.cmdw := rfl
@[simp] theorem setStageTag_result (t : Tag) (s : State) : (setStageTag t s).result = s.result := rfl
@[simp] theorem setStageTag_mackey (t : Tag) (s : State) : (setStageTag t s).mackey = s.mackey := rfl
@[simp] theorem setStageTag_expTag (t : Tag) (s : State) : (setStageTag t s).expTag = s.expTag := rfl
@[simp] theorem setStageTag_stage (t : Tag) (s : State) : (setStageTag t s).stage = s.stage := rfl
@[simp] theorem setStageTag_stageLen (t : Tag) (s : State) : (setStageTag t s).stageLen = s.stageLen := rfl
@[simp] theorem setStageTag_stageTag (t : Tag) (s : State) : (setStageTag t s).stageTag = t := rfl
@[simp] theorem setStageTag_log (t : Tag) (s : State) : (setStageTag t s).log = s.log := rfl
@[simp] theorem setStageTag_script (t : Tag) (s : State) : (setStageTag t s).script = s.script := rfl
@[simp] theorem setStageTag_response (t : Tag) (s : State) : (setStageTag t s).response = s.response := rfl
@[simp] theorem setStageTag_powerOns (t : Tag) (s : State) : (setStageTag t s).powerOns = s.powerOns := rfl

/-! ### setExpTag -/
@[simp] theorem setExpTag_irqEn (t : Tag) (s : State) : (setExpTag t s).irqEn = s.irqEn := rfl
@[simp] theorem setExpTag_busy (t : Tag) (s : State) : (setExpTag t s).busy = s.busy := rfl
@[simp] theorem setExpTag_done (t : Tag) (s : State) : (setExpTag t s).done = s.done := rfl
@[simp] theorem setExpTag_overrun (t : Tag) (s : State) : (setExpTag t s).overrun = s.overrun := rfl
@[simp] theorem setExpTag_err (t : Tag) (s : State) : (setExpTag t s).err = s.err := rfl
@[simp] theorem setExpTag_cause (t : Tag) (s : State) : (setExpTag t s).cause = s.cause := rfl
@[simp] theorem setExpTag_lastOpc (t : Tag) (s : State) : (setExpTag t s).lastOpc = s.lastOpc := rfl
@[simp] theorem setExpTag_aadLen (t : Tag) (s : State) : (setExpTag t s).aadLen = s.aadLen := rfl
@[simp] theorem setExpTag_dataLen (t : Tag) (s : State) : (setExpTag t s).dataLen = s.dataLen := rfl
@[simp] theorem setExpTag_outLen (t : Tag) (s : State) : (setExpTag t s).outLen = s.outLen := rfl
@[simp] theorem setExpTag_key (t : Tag) (s : State) : (setExpTag t s).key = s.key := rfl
@[simp] theorem setExpTag_nonce (t : Tag) (s : State) : (setExpTag t s).nonce = s.nonce := rfl
@[simp] theorem setExpTag_tagIn (t : Tag) (s : State) : (setExpTag t s).tagIn = s.tagIn := rfl
@[simp] theorem setExpTag_tagOut (t : Tag) (s : State) : (setExpTag t s).tagOut = s.tagOut := rfl
@[simp] theorem setExpTag_aadMem (t : Tag) (s : State) : (setExpTag t s).aadMem = s.aadMem := rfl
@[simp] theorem setExpTag_inMem (t : Tag) (s : State) : (setExpTag t s).inMem = s.inMem := rfl
@[simp] theorem setExpTag_outMem (t : Tag) (s : State) : (setExpTag t s).outMem = s.outMem := rfl
@[simp] theorem setExpTag_phase (t : Tag) (s : State) : (setExpTag t s).phase = s.phase := rfl
@[simp] theorem setExpTag_cmdw (t : Tag) (s : State) : (setExpTag t s).cmdw = s.cmdw := rfl
@[simp] theorem setExpTag_result (t : Tag) (s : State) : (setExpTag t s).result = s.result := rfl
@[simp] theorem setExpTag_mackey (t : Tag) (s : State) : (setExpTag t s).mackey = s.mackey := rfl
@[simp] theorem setExpTag_expTag (t : Tag) (s : State) : (setExpTag t s).expTag = t := rfl
@[simp] theorem setExpTag_stage (t : Tag) (s : State) : (setExpTag t s).stage = s.stage := rfl
@[simp] theorem setExpTag_stageLen (t : Tag) (s : State) : (setExpTag t s).stageLen = s.stageLen := rfl
@[simp] theorem setExpTag_stageTag (t : Tag) (s : State) : (setExpTag t s).stageTag = s.stageTag := rfl
@[simp] theorem setExpTag_log (t : Tag) (s : State) : (setExpTag t s).log = s.log := rfl
@[simp] theorem setExpTag_script (t : Tag) (s : State) : (setExpTag t s).script = s.script := rfl
@[simp] theorem setExpTag_response (t : Tag) (s : State) : (setExpTag t s).response = s.response := rfl
@[simp] theorem setExpTag_powerOns (t : Tag) (s : State) : (setExpTag t s).powerOns = s.powerOns := rfl

/-! ### The reset state -/
@[simp] theorem reset_irqEn : State.reset.irqEn = false := rfl
@[simp] theorem reset_busy : State.reset.busy = false := rfl
@[simp] theorem reset_done : State.reset.done = false := rfl
@[simp] theorem reset_overrun : State.reset.overrun = false := rfl
@[simp] theorem reset_err : State.reset.err = .ok := rfl
@[simp] theorem reset_cause : State.reset.cause = .none := rfl
@[simp] theorem reset_lastOpc : State.reset.lastOpc = 0#4 := rfl
@[simp] theorem reset_aadLen : State.reset.aadLen = 0#64 := rfl
@[simp] theorem reset_dataLen : State.reset.dataLen = 0#64 := rfl
@[simp] theorem reset_outLen : State.reset.outLen = 0#64 := rfl
@[simp] theorem reset_key : State.reset.key = 0#256 := rfl
@[simp] theorem reset_nonce : State.reset.nonce = 0#96 := rfl
@[simp] theorem reset_tagIn : State.reset.tagIn = 0#128 := rfl
@[simp] theorem reset_tagOut : State.reset.tagOut = 0#128 := rfl
@[simp] theorem reset_aadMem : State.reset.aadMem = [] := rfl
@[simp] theorem reset_inMem : State.reset.inMem = [] := rfl
@[simp] theorem reset_outMem : State.reset.outMem = [] := rfl
@[simp] theorem reset_phase : State.reset.phase = .idle := rfl
@[simp] theorem reset_cmdw : State.reset.cmdw = 0#32 := rfl
@[simp] theorem reset_result : State.reset.result = (.ok, .none) := rfl
@[simp] theorem reset_mackey : State.reset.mackey = 0#256 := rfl
@[simp] theorem reset_expTag : State.reset.expTag = 0#128 := rfl
@[simp] theorem reset_stage : State.reset.stage = [] := rfl
@[simp] theorem reset_stageLen : State.reset.stageLen = 0 := rfl
@[simp] theorem reset_stageTag : State.reset.stageTag = 0#128 := rfl
@[simp] theorem reset_log : State.reset.log = [] := rfl
@[simp] theorem reset_script : State.reset.script = [] := rfl
@[simp] theorem reset_response : State.reset.response = .none := rfl
@[simp] theorem reset_powerOns : State.reset.powerOns = 0 := rfl

end Sys2Proof.Machine
end

