-- ==== Sys2Proof/Laws/Flags.lean ====
section
/-! SUPPORT. The bits of STATUS and CTRL as words, and the two outcomes of a CTRL write. -/

namespace Sys2Proof.Machine

theorem getLsbD_bitWord (b : Bool) (i : Nat) : (bitWord b).getLsbD i = (decide (i = 0) && b) := by
  cases b <;> by_cases h : i = 0
  · subst h; decide
  · simp [bitWord, h]
  · subst h; decide
  · simp [bitWord, h]

/-- Every bit of STATUS (10_state.md R50). -/
theorem getLsbD_statusWord (s : State) (i : Nat) (hi : i < 32) : (statusWord s).getLsbD i =
    if i = 0 then s.busy else if i = 1 then s.done else if i = 2 then s.overrun
    else if i < 4 then false else if i < 8 then (errCode s.err).getLsbD (i - 4)
    else if i < 12 then (causeCode s.cause).getLsbD (i - 8)
    else if i < 16 then s.lastOpc.getLsbD (i - 12) else false := by
  unfold statusWord
  generalize errCode s.err = e
  generalize causeCode s.cause = c
  generalize s.lastOpc = l
  simp only [BitVec.getLsbD_or, BitVec.getLsbD_shiftLeft, getLsbD_bitWord, BitVec.getLsbD_setWidth]
  have he : ∀ j, 4 ≤ j → e.getLsbD j = false := fun j hj => BitVec.getLsbD_of_ge e j hj
  have hc : ∀ j, 4 ≤ j → c.getLsbD j = false := fun j hj => BitVec.getLsbD_of_ge c j hj
  have hl : ∀ j, 4 ≤ j → l.getLsbD j = false := fun j hj => BitVec.getLsbD_of_ge l j hj
  interval_cases i <;> simp_all [-BitVec.getLsbD_eq_getElem]

theorem ctrlWrite_reset {w : Word} (s : State) (h : w.getLsbD 1 = true) : ctrlWrite w s = softReset s := by
  rw [ctrlWrite, if_pos h]

theorem ctrlWrite_keep {w : Word} (s : State) (h : w.getLsbD 1 = false) :
    ctrlWrite w s = { s with irqEn := w.getLsbD 0 } := by
  rw [ctrlWrite, if_neg (by rw [h]; exact Bool.false_ne_true)]

end Sys2Proof.Machine
end

