-- ==== Sys2Proof/Laws/Bytes.lean ====
section
/-! SUPPORT. The laws of byte and word positions and of the padded message. -/

namespace Sys2Proof.Machine

@[simp] theorem length_bytesOf {n : Nat} (v : BitVec n) (len : Nat) : (bytesOf v len).length = len := by
  simp [bytesOf]

theorem getElem_bytesOf {n : Nat} (v : BitVec n) (len i : Nat) (h : i < (bytesOf v len).length) :
    (bytesOf v len)[i] = byteAt v i := by
  simp [bytesOf]

@[simp] theorem length_zeros (n : Nat) : (zeros n).length = n := by simp [zeros]

@[simp] theorem length_le64 (n : Nat) : (le64 n).length = 8 := by simp [le64]

theorem le_ru16 (n : Nat) : n ≤ ru16 n := by unfold ru16; omega

theorem ru16_lt (n : Nat) : ru16 n < n + 16 := by unfold ru16; omega

theorem dvd_ru16 (n : Nat) : 16 ∣ ru16 n := ⟨_, rfl⟩

/-- The length law (40_pad.md R153). -/
theorem length_padMessage (a d : List Byte) : (padMessage a d).length = ru16 a.length + ru16 d.length + 16 := by
  have h₁ := le_ru16 a.length
  have h₂ := le_ru16 d.length
  simp only [padMessage, List.length_append, length_zeros, length_le64]
  omega

/-- One bit of a byte. -/
theorem getLsbD_byteAt {n : Nat} (v : BitVec n) (k j : Nat) :
    (byteAt v k).getLsbD j = (decide (j < 8) && v.getLsbD (8 * k + j)) := by
  simp [byteAt]

/-- Word `i` as a number. -/
theorem toNat_wordAt {n : Nat} (v : BitVec n) (i : Nat) : (wordAt v i).toNat = v.toNat / 2 ^ (32 * i) % 2 ^ 32 := by
  simp [wordAt, Nat.shiftRight_eq_div_pow]

/-- Replacing word `i`: inside the word the new bits, elsewhere what was there. -/
theorem getLsbD_setWordAt {n : Nat} (v : BitVec n) (i : Nat) (w : Word) (j : Nat) :
    (setWordAt v i w).getLsbD j =
      (decide (j < n) && if 32 * i ≤ j ∧ j < 32 * i + 32 then w.getLsbD (j - 32 * i) else v.getLsbD j) := by
  simp only [setWordAt, BitVec.getLsbD_or, BitVec.getLsbD_and, BitVec.getLsbD_not, BitVec.getLsbD_shiftLeft,
    BitVec.getLsbD_setWidth, BitVec.getLsbD_allOnes]
  by_cases hn : j < n
  · by_cases h₁ : j < 32 * i
    · have h₂ : ¬ 32 * i ≤ j := by omega
      simp [hn, h₁, h₂]
    · by_cases h₃ : j < 32 * i + 32
      · have h₄ : j - 32 * i < 32 := by omega
        have h₅ : j - 32 * i < n := by omega
        simp [hn, h₁, h₃, h₄, h₅, Nat.le_of_not_lt h₁]
      · have h₄ : ¬ j - 32 * i < 32 := by omega
        simp [hn, h₁, h₃, h₄, BitVec.getLsbD_of_ge w _ (Nat.le_of_not_lt h₄)]
  · simp [hn]

/-- The byte of a word read after the word was replaced. -/
theorem byteAt_setWordAt {n : Nat} (v : BitVec n) (i : Nat) (w : Word) (k : Nat) (h : 8 * k + 8 ≤ n) :
    byteAt (setWordAt v i w) k = if 4 * i ≤ k ∧ k < 4 * i + 4 then byteAt w (k - 4 * i) else byteAt v k := by
  refine BitVec.eq_of_getLsbD_eq fun j hj => ?_
  by_cases hk : 4 * i ≤ k ∧ k < 4 * i + 4
  · have h₁ : 32 * i ≤ 8 * k + j ∧ 8 * k + j < 32 * i + 32 := by omega
    have h₂ : 8 * k + j - 32 * i = 8 * (k - 4 * i) + j := by omega
    have h₃ : 8 * k + j < n := by omega
    rw [if_pos hk, getLsbD_byteAt, getLsbD_byteAt, getLsbD_setWordAt, if_pos h₁, h₂]
    simp [h₃]
  · have h₁ : ¬ (32 * i ≤ 8 * k + j ∧ 8 * k + j < 32 * i + 32) := by omega
    have h₃ : 8 * k + j < n := by omega
    rw [if_neg hk, getLsbD_byteAt, getLsbD_byteAt, getLsbD_setWordAt, if_neg h₁]
    simp [h₃]

/-- Reading a word back after it was written. -/
theorem wordAt_setWordAt {n : Nat} (v : BitVec n) (i : Nat) (w : Word) (h : 32 * i + 32 ≤ n) :
    wordAt (setWordAt v i w) i = w := by
  refine BitVec.eq_of_getLsbD_eq fun j hj => ?_
  have h₁ : 32 * i + j < n := by omega
  have h₂ : 32 * i ≤ 32 * i + j ∧ 32 * i + j < 32 * i + 32 := by omega
  rw [wordAt, BitVec.getLsbD_extractLsb', getLsbD_setWordAt, if_pos h₂]
  simp [hj, h₁]

/-- Another word of the group is unchanged. -/
theorem wordAt_setWordAt_of_ne {n : Nat} (v : BitVec n) (i j : Nat) (w : Word) (h : i ≠ j) :
    wordAt (setWordAt v i w) j = wordAt v j := by
  refine BitVec.eq_of_getLsbD_eq fun l hl => ?_
  have h₁ : ¬ (32 * i ≤ 32 * j + l ∧ 32 * j + l < 32 * i + 32) := by omega
  simp only [wordAt, BitVec.getLsbD_extractLsb', getLsbD_setWordAt, h₁, if_false, hl, decide_true, Bool.true_and]
  by_cases h₂ : 32 * j + l < n
  · simp [h₂]
  · simp [h₂, BitVec.getLsbD_of_ge _ _ (Nat.le_of_not_lt h₂)]

/-- The four bytes of a window word (20_memory.md R90). -/
theorem byteAt_bufferWord (d : Nat → Byte) (m : Memory) (off j : Nat) (h : j < 4) :
    byteAt (bufferWord d m off) j = Memory.read d m (off + j) := by
  have hb : ∀ k, (Memory.read d m (off + k)).toNat < 256 := fun k => (Memory.read d m (off + k)).isLt
  have h0 := hb 0; have h1 := hb 1; have h2 := hb 2; have h3 := hb 3
  have hr : Memory.readBytes d m off 4 = [Memory.read d m (off + 0), Memory.read d m (off + 1),
      Memory.read d m (off + 2), Memory.read d m (off + 3)] := rfl
  apply BitVec.eq_of_toNat_eq
  simp only [byteAt, bufferWord, hr, leValue, BitVec.extractLsb'_toNat, BitVec.toNat_ofNat, Nat.shiftRight_eq_div_pow]
  have : j = 0 ∨ j = 1 ∨ j = 2 ∨ j = 3 := by omega
  rcases this with rfl | rfl | rfl | rfl <;> simp only [Nat.add_zero] at * <;> norm_num <;> omega

end Sys2Proof.Machine
end

