-- ==== Sys2Proof/Laws/Config.lean ====
section
/-! SUPPORT. The hardware's configuration keeps every constraint of 00_scope.md R8, whatever the free values are. -/

namespace Sys2Proof

theorem Config.wellFormed_iff (c : Config) : c.wellFormed = true ↔
    (c.aadCap % 16 = 0 ∧ 16 ≤ c.aadCap ∧ c.aadCap ≤ 2 ^ 20)
    ∧ (c.dataCap % 16 = 0 ∧ 16 ≤ c.dataCap ∧ c.dataCap ≤ 2 ^ 20)
    ∧ (c.outCap % 16 = 0 ∧ max c.dataCap 32 ≤ c.outCap ∧ c.outCap ≤ 2 ^ 22)
    ∧ (1 ≤ c.scMaxCounter ∧ c.scMaxCounter ≤ 2 ^ 64 - 1)
    ∧ c.base % 2 ^ 23 = 0 := by
  simp only [Config.wellFormed, capWellFormed, Bool.and_eq_true, beq_iff_eq, decide_eq_true_eq]
  tauto

theorem Config.inputCap_bounds (u : Nat) :
    Config.inputCap u % 16 = 0 ∧ 16 ≤ Config.inputCap u ∧ Config.inputCap u ≤ 2 ^ 20 := by
  unfold Config.inputCap; omega

theorem Config.outputCap_bounds (d u : Nat) (h : d % 16 = 0 ∧ 16 ≤ d ∧ d ≤ 2 ^ 20) :
    Config.outputCap d u % 16 = 0 ∧ max d 32 ≤ Config.outputCap d u ∧ Config.outputCap d u ≤ 2 ^ 22 := by
  have := Nat.mod_lt u (Nat.succ_pos ((2 ^ 22 - max d 32) / 16))
  have hd := h.1
  unfold Config.outputCap
  generalize u % ((2 ^ 22 - max d 32) / 16 + 1) = r at *
  omega

/-- Every capacity R8 allows AAD_MEM and IN_MEM is one of `inputCap`'s values. -/
theorem Config.inputCap_surjective (cap : Nat) (h : cap % 16 = 0 ∧ 16 ≤ cap ∧ cap ≤ 2 ^ 20) :
    ∃ u, Config.inputCap u = cap := ⟨cap / 16 - 1, by unfold Config.inputCap; omega⟩

/-- Every capacity R8 allows OUT_MEM is one of `outputCap`'s values. -/
theorem Config.outputCap_surjective (d cap : Nat) (hd : d % 16 = 0)
    (h : cap % 16 = 0 ∧ max d 32 ≤ cap ∧ cap ≤ 2 ^ 22) : ∃ u, Config.outputCap d u = cap :=
  ⟨(cap - max d 32) / 16, by
    unfold Config.outputCap
    rw [Nat.mod_eq_of_lt (by omega)]
    omega⟩

theorem Config.hw_wellFormed : Config.hw.wellFormed = true := by
  rw [Config.wellFormed_iff]
  refine ⟨Config.inputCap_bounds _, Config.inputCap_bounds _,
    Config.outputCap_bounds _ _ (Config.inputCap_bounds _), ?_, ?_⟩
  · change 1 ≤ 1 + Config.freeMaxCounter % (2 ^ 64 - 1) ∧ 1 + Config.freeMaxCounter % (2 ^ 64 - 1) ≤ 2 ^ 64 - 1
    omega
  · change 2 ^ 23 * Config.freeBaseUnits % 2 ^ 23 = 0
    omega

end Sys2Proof
end

