-- ==== Sys2Proof/Laws/Memory.lean ====
section
/-! SUPPORT. The laws of the byte buffers: a read after a write, the canonical form and the bound kept by every write. -/

namespace Sys2Proof.Machine

variable {d : Nat → Byte}

@[simp] theorem Memory.read_nil (a : Nat) : Memory.read d [] a = d a := rfl

@[simp] theorem Memory.wf_nil : Memory.wf d [] = true := rfl

@[simp] theorem Memory.below_nil (cap : Nat) : Memory.below cap [] = true := rfl

@[simp] theorem Memory.length_readBytes (m : Memory) (off n : Nat) : (Memory.readBytes d m off n).length = n := by
  simp [Memory.readBytes]

theorem Memory.getElem?_readBytes (m : Memory) (off n i : Nat) :
    (Memory.readBytes d m off n)[i]? = if i < n then some (Memory.read d m (off + i)) else none := by
  by_cases h : i < n <;> simp [Memory.readBytes, h]

/-- Reading past a prefix that does not list the offset. -/
theorem Memory.read_append {m₁ : Memory} (m₂ : Memory) {a : Nat} (h : ∀ x ∈ m₁, x.1 ≠ a) :
    Memory.read d (m₁ ++ m₂) a = Memory.read d m₂ a := by
  induction m₁ with
  | nil => rfl
  | cons x m₁ ih =>
    obtain ⟨k, b⟩ := x
    have hk : k ≠ a := h (k, b) (by simp)
    simpa [Memory.read, hk] using ih fun y hy => h y (by simp [hy])

/-- An offset nothing lists reads as its unlisted byte. -/
theorem Memory.read_of_unlisted {m : Memory} {a : Nat} (h : ∀ x ∈ m, x.1 ≠ a) : Memory.read d m a = d a := by
  simpa using Memory.read_append (d := d) [] h

/-- Reading before a suffix that does not list the offset. -/
theorem Memory.read_append_left (m₁ : Memory) {m₂ : Memory} {a : Nat} (h : ∀ x ∈ m₂, x.1 ≠ a) :
    Memory.read d (m₁ ++ m₂) a = Memory.read d m₁ a := by
  induction m₁ with
  | nil => simpa using Memory.read_of_unlisted h
  | cons x m₁ ih => obtain ⟨k, b⟩ := x; simp [Memory.read, ih]

/-- Filtering on offsets keeps what a kept offset reads as. -/
theorem Memory.read_filter (m : Memory) (p : Nat → Bool) {a : Nat} (h : p a = true) :
    Memory.read d (m.filter fun x => p x.1) a = Memory.read d m a := by
  induction m with
  | nil => rfl
  | cons x m ih =>
    obtain ⟨k, b⟩ := x
    by_cases hk : k = a
    · simp [Memory.read, List.filter, hk, h]
    · cases hp : p k <;> simp [Memory.read, List.filter, hp, hk, ih]

/-- The offsets that `cells` lists. -/
theorem Memory.mem_cells {bs : List Byte} {off : Nat} {x : Host.Cell} (h : x ∈ Memory.cells d off bs) :
    off ≤ x.1 ∧ x.1 < off + bs.length ∧ x.2 ≠ d x.1 := by
  induction bs generalizing off with
  | nil => simp [Memory.cells] at h
  | cons b bs ih =>
    by_cases hb : b = d off
    · simp only [Memory.cells, hb, if_true] at h
      have := ih h
      simp only [List.length_cons]
      exact ⟨by omega, by omega, this.2.2⟩
    · simp only [Memory.cells, hb, if_false, List.mem_cons] at h
      rcases h with rfl | h
      · exact ⟨Nat.le_refl _, by simp, hb⟩
      · have := ih h
        simp only [List.length_cons]
        exact ⟨by omega, by omega, this.2.2⟩

/-- What `cells` reads as within its range. -/
theorem Memory.read_cells (bs : List Byte) (off i : Nat) (h : i < bs.length) :
    Memory.read d (Memory.cells d off bs) (off + i) = bs[i] := by
  induction bs generalizing off i with
  | nil => simp at h
  | cons b bs ih =>
    cases i with
    | zero =>
      by_cases hb : b = d off
      · simp only [Memory.cells, hb, if_true, Nat.add_zero, List.getElem_cons_zero]
        exact Memory.read_of_unlisted fun x hx => by have := Memory.mem_cells hx; omega
      · simp [Memory.cells, hb, Memory.read]
    | succ i =>
      have hi : i < bs.length := by simpa using h
      have := ih (off + 1) i hi
      rw [Nat.add_assoc, Nat.add_comm 1 i] at this
      by_cases hb : b = d off
      · simpa [Memory.cells, hb] using this
      · have hne : off ≠ off + (i + 1) := by omega
        simpa [Memory.cells, hb, Memory.read, hne] using this

/-- MemWrite then a read: inside the range the byte written, elsewhere what was there. -/
theorem Memory.read_writeBytes (m : Memory) (off : Nat) (bs : List Byte) (a : Nat) :
    Memory.read d (Memory.writeBytes d m off bs) a =
      if h : off ≤ a ∧ a < off + bs.length then bs[a - off]'(by omega) else Memory.read d m a := by
  have hlow : ∀ x ∈ m.filter (fun x => decide (x.1 < off)), x.1 < off := fun x hx => by
    simpa using (List.mem_filter.1 hx).2
  have hhigh : ∀ x ∈ m.filter (fun x => decide (off + bs.length ≤ x.1)), off + bs.length ≤ x.1 := fun x hx => by
    simpa using (List.mem_filter.1 hx).2
  unfold Memory.writeBytes
  by_cases h₁ : a < off
  · have hskip : ∀ x ∈ Memory.cells d off bs ++ m.filter (fun x => decide (off + bs.length ≤ x.1)), x.1 ≠ a := by
      intro x hx
      rcases List.mem_append.1 hx with hx | hx
      · have := Memory.mem_cells hx; omega
      · have := hhigh x hx; omega
    rw [List.append_assoc, Memory.read_append_left _ hskip, Memory.read_filter m (fun k => decide (k < off)) (by simpa using h₁)]
    rw [dif_neg (by omega)]
  · have hne : ∀ x ∈ m.filter (fun x => decide (x.1 < off)), x.1 ≠ a := fun x hx => by have := hlow x hx; omega
    rw [List.append_assoc, Memory.read_append _ hne]
    by_cases h₂ : a < off + bs.length
    · rw [dif_pos ⟨by omega, h₂⟩]
      rw [Memory.read_append_left _ fun x hx => by have := hhigh x hx; omega]
      have := Memory.read_cells (d := d) bs off (a - off) (by omega)
      rwa [Nat.add_sub_cancel' (by omega)] at this
    · rw [dif_neg (by omega), Memory.read_append _ fun x hx => by have := Memory.mem_cells hx; omega,
        Memory.read_filter m (fun k => decide (off + bs.length ≤ k)) (by simpa using h₂)]

theorem Memory.risingFrom_iff {lo : Nat} {m : Memory} :
    Memory.risingFrom lo m = true ↔ m.Pairwise (fun x y => x.1 < y.1) ∧ ∀ x ∈ m, lo ≤ x.1 := by
  induction m generalizing lo with
  | nil => simp [Memory.risingFrom]
  | cons x m ih =>
    obtain ⟨k, b⟩ := x
    simp only [Memory.risingFrom, Bool.and_eq_true, decide_eq_true_eq, ih, List.pairwise_cons, List.mem_cons,
      forall_eq_or_imp]
    constructor
    · rintro ⟨h₁, h₂, h₃⟩
      exact ⟨⟨fun y hy => h₃ y hy, h₂⟩, h₁, fun y hy => by have := h₃ y hy; omega⟩
    · rintro ⟨⟨h₁, h₂⟩, h₃, -⟩
      exact ⟨h₃, h₂, fun y hy => h₁ y hy⟩

theorem Memory.wf_iff {m : Memory} :
    Memory.wf d m = true ↔ m.Pairwise (fun x y => x.1 < y.1) ∧ ∀ x ∈ m, x.2 ≠ d x.1 := by
  simp [Memory.wf, Memory.risingFrom_iff]

theorem Memory.cells_pairwise (bs : List Byte) (off : Nat) :
    (Memory.cells d off bs).Pairwise (fun x y => x.1 < y.1) := by
  induction bs generalizing off with
  | nil => simp [Memory.cells]
  | cons b bs ih =>
    by_cases hb : b = d off
    · simpa [Memory.cells, hb] using ih (off + 1)
    · simp only [Memory.cells, hb, if_false, List.pairwise_cons]
      exact ⟨fun x hx => by have := Memory.mem_cells hx; omega, ih (off + 1)⟩

/-- Every write keeps the canonical form. -/
theorem Memory.wf_writeBytes {m : Memory} (h : Memory.wf d m = true) (off : Nat) (bs : List Byte) :
    Memory.wf d (Memory.writeBytes d m off bs) = true := by
  obtain ⟨hp, hd⟩ := Memory.wf_iff.1 h
  refine Memory.wf_iff.2 ⟨?_, ?_⟩
  · unfold Memory.writeBytes
    rw [List.append_assoc, List.pairwise_append, List.pairwise_append]
    refine ⟨hp.filter _, ⟨Memory.cells_pairwise bs off, hp.filter _, ?_⟩, ?_⟩
    · intro x hx y hy
      have := Memory.mem_cells hx
      have : off + bs.length ≤ y.1 := by simpa using (List.mem_filter.1 hy).2
      omega
    · intro x hx y hy
      have h₁ : x.1 < off := by simpa using (List.mem_filter.1 hx).2
      rcases List.mem_append.1 hy with hy | hy
      · have := Memory.mem_cells hy; omega
      · have : off + bs.length ≤ y.1 := by simpa using (List.mem_filter.1 hy).2
        omega
  · intro x hx
    simp only [Memory.writeBytes, List.mem_append] at hx
    rcases hx with (hx | hx) | hx
    · exact hd x (List.mem_filter.1 hx).1
    · exact (Memory.mem_cells hx).2.2
    · exact hd x (List.mem_filter.1 hx).1

/-- A write within the capacity keeps every listed offset below it. -/
theorem Memory.below_writeBytes {m : Memory} {cap : Nat} (h : Memory.below cap m = true) {off : Nat} {bs : List Byte}
    (hfit : off + bs.length ≤ cap) : Memory.below cap (Memory.writeBytes d m off bs) = true := by
  simp only [Memory.below, List.all_eq_true, decide_eq_true_eq] at h ⊢
  intro x hx
  simp only [Memory.writeBytes, List.mem_append] at hx
  rcases hx with (hx | hx) | hx
  · exact h x (List.mem_filter.1 hx).1
  · have := Memory.mem_cells hx; omega
  · exact h x (List.mem_filter.1 hx).1

/-- At and beyond the bound a buffer reads as its unlisted byte. -/
theorem Memory.read_of_below {m : Memory} {cap a : Nat} (h : Memory.below cap m = true) (ha : cap ≤ a) :
    Memory.read d m a = d a := by
  simp only [Memory.below, List.all_eq_true, decide_eq_true_eq] at h
  exact Memory.read_of_unlisted fun x hx => by have := h x hx; omega

end Sys2Proof.Machine
end

