-- ==== Sys2Proof/Laws/Ops.lean ====
section
/-! SUPPORT. One lemma for each shared operation that says everything it can do, and the laws of the comparator and of the
apply port. -/

namespace Sys2Proof.Machine

theorem commit_ok {s : State} (h : s.result.1 = .ok) : commit s = settle .ok s.result.2 (publish s) := by
  unfold commit
  rcases hr : s.result with ⟨e, c⟩
  rw [hr] at h
  subst h
  rfl

theorem commit_failed {s : State} (h : s.result.1 ≠ .ok) : commit s = settle s.result.1 s.result.2 s := by
  unfold commit
  rcases hr : s.result with ⟨e, c⟩
  rw [hr] at h
  cases e <;> first | exact absurd rfl h | rfl

/-- A commit publishes on success and never otherwise; what follows is the same. -/
theorem commit_cases (s : State) :
    (s.result.1 = .ok ∧ commit s = settle .ok s.result.2 (publish s))
    ∨ (s.result.1 ≠ .ok ∧ commit s = settle s.result.1 s.result.2 s) := by
  by_cases h : s.result.1 = .ok
  · exact .inl ⟨h, commit_ok h⟩
  · exact .inr ⟨h, commit_failed h⟩

theorem cmdWrite_idle {s : State} (w : Word) (h : s.busy = false) : cmdWrite w s = accept w s := by
  simp [cmdWrite, h]

theorem cmdWrite_busy {s : State} (w : Word) (h : s.busy = true) : cmdWrite w s = { s with overrun := true } := by
  simp [cmdWrite, h]

theorem checkLengths_cases (c : Config) (ok : State → State) (s : State) :
    (c.aadCap < aadLength s ∧ checkLengths c ok s = fail .lengthError .aadTooLong s)
    ∨ (aadLength s ≤ c.aadCap ∧ c.dataCap < dataLength s ∧ checkLengths c ok s = fail .lengthError .dataTooLong s)
    ∨ (aadLength s ≤ c.aadCap ∧ dataLength s ≤ c.dataCap ∧ checkLengths c ok s = ok s) := by
  unfold checkLengths
  split
  · exact .inl ⟨‹_›, rfl⟩
  · split
    · exact .inr (.inl ⟨by omega, ‹_›, rfl⟩)
    · exact .inr (.inr ⟨by omega, by omega, rfl⟩)

theorem checkPadLength_cases (c : Config) (s : State) :
    (c.outCap < padLength s ∧ checkPadLength c s = fail .lengthError .padTooLong s)
    ∨ (padLength s ≤ c.outCap ∧ checkPadLength c s = goTo .padout s) := by
  unfold checkPadLength
  split
  · exact .inl ⟨‹_›, rfl⟩
  · exact .inr ⟨by omega, rfl⟩

theorem compareTags_cases (s : State) :
    (ctEq16 s.expTag s.tagIn = true ∧ compareTags s = goTo .cipher s)
    ∨ (ctEq16 s.expTag s.tagIn = false ∧ compareTags s = fail .authenticationFailure .tagMismatch s) := by
  unfold compareTags
  split
  · exact .inl ⟨‹_›, rfl⟩
  · exact .inr ⟨Bool.eq_false_iff.2 ‹_›, rfl⟩

theorem cipher_cases (c : Config) (onError : Err) (next : State → State) (s : State) :
    (scApply c s.key s.nonce 1#64 (dataOperand c s) = none ∧ cipher c onError next s =
        fail onError .streamLimit (logEvent (.apply s.key s.nonce 1#64 (dataOperand c s) .streamCipherError) s))
    ∨ (∃ r, scApply c s.key s.nonce 1#64 (dataOperand c s) = some r ∧ cipher c onError next s =
        next (putStage r (logEvent (.apply s.key s.nonce 1#64 (dataOperand c s) .ok) s))) := by
  unfold cipher
  split
  · exact .inl ⟨‹_›, rfl⟩
  · exact .inr ⟨_, ‹_›, rfl⟩

theorem unlessBusy_busy {f : State → State} {s : State} (h : s.busy = true) : unlessBusy f s = s := by
  simp [unlessBusy, h]

theorem unlessBusy_idle {f : State → State} {s : State} (h : s.busy = false) : unlessBusy f s = f s := by
  simp [unlessBusy, h]

/-! ### The apply port -/

theorem length_flatMap_bytesOf (f : Nat → KeystreamBlock) (l : List Nat) :
    (l.flatMap fun j => bytesOf (f j) 64).length = 64 * l.length := by
  induction l with
  | nil => rfl
  | cons j l ih => simp only [List.flatMap_cons, List.length_append, length_bytesOf, ih, List.length_cons]; omega

@[simp] theorem length_keystream (c : Config) (k : Key) (n : Nonce) (c0 : DWord) (b : Nat) :
    (keystream c k n c0 b).length = 64 * b := by
  rw [keystream, length_flatMap_bytesOf, List.length_range]

/-- Enough keystream for `len` bytes. -/
theorem le_blocksFor (len : Nat) : len ≤ 64 * blocksFor len := by unfold blocksFor; omega

theorem scApply_eq_none {c : Config} {k : Key} {n : Nonce} {c0 : DWord} {d : List Byte} :
    scApply c k n c0 d = none ↔ applyFails c c0 d.length = true := by
  unfold scApply
  split <;> simp_all

theorem length_scApply {c : Config} {k : Key} {n : Nonce} {c0 : DWord} {d r : List Byte}
    (h : scApply c k n c0 d = some r) : r.length = d.length := by
  unfold scApply at h
  split at h
  · cases h
  · cases h
    have := le_blocksFor d.length
    simp only [List.length_zipWith, length_keystream]
    omega

/-- Byte `i` of a keystream is byte `i mod 64` of the block at counter `c0 + i div 64` (45_collaborators.md R242). -/
theorem getElem?_flatMap_bytesOf (f : Nat → KeystreamBlock) (b o i : Nat) (h : i < 64 * b) :
    ((List.range' o b).flatMap fun j => bytesOf (f j) 64)[i]? = some (byteAt (f (o + i / 64)) (i % 64)) := by
  induction b generalizing o i with
  | zero => omega
  | succ b ih =>
    rw [List.range'_succ, List.flatMap_cons]
    by_cases hi : i < 64
    · rw [List.getElem?_append_left (by simpa using hi), List.getElem?_eq_getElem (by simpa using hi), getElem_bytesOf,
        Nat.div_eq_of_lt hi, Nat.mod_eq_of_lt hi, Nat.add_zero]
    · rw [List.getElem?_append_right (by simpa using Nat.le_of_not_lt hi), length_bytesOf, ih (o + 1) (i - 64) (by omega)]
      have h₁ : o + 1 + (i - 64) / 64 = o + i / 64 := by omega
      have h₂ : (i - 64) % 64 = i % 64 := by omega
      rw [h₁, h₂]

theorem getElem?_keystream (c : Config) (k : Key) (n : Nonce) (c0 : DWord) (b i : Nat) (h : i < 64 * b) :
    (keystream c k n c0 b)[i]? = some (byteAt (c.scBlock k (c0 + BitVec.ofNat 64 (i / 64)) n) (i % 64)) := by
  have := getElem?_flatMap_bytesOf (fun j => c.scBlock k (c0 + BitVec.ofNat 64 j) n) b 0 i h
  rw [List.range_eq_range'.symm] at this
  simpa [keystream] using this

/-- Byte `i` of what the apply port returns. -/
theorem getElem?_scApply {c : Config} {k : Key} {n : Nonce} {c0 : DWord} {d r : List Byte}
    (h : scApply c k n c0 d = some r) {i : Nat} {x : Byte} (hx : d[i]? = some x) :
    r[i]? = some (x ^^^ byteAt (c.scBlock k (c0 + BitVec.ofNat 64 (i / 64)) n) (i % 64)) := by
  unfold scApply at h
  split at h
  · cases h
  · cases h
    have hi : i < d.length := (List.getElem?_eq_some_iff.1 hx).1
    have := le_blocksFor d.length
    rw [List.getElem?_zipWith, hx, getElem?_keystream _ _ _ _ _ _ (by omega)]

/-! ### The tag comparator -/

theorem foldl_or_eq_zero (f : Nat → Byte) (l : List Nat) (a : Byte) :
    l.foldl (fun acc i => acc ||| f i) a = 0#8 ↔ a = 0#8 ∧ ∀ i ∈ l, f i = 0#8 := by
  induction l generalizing a with
  | nil => simp
  | cons i l ih =>
    rw [List.foldl_cons, ih, BitVec.or_eq_zero_iff]
    simp [and_assoc]

/-- The comparator accepts exactly the tags that agree in all 16 bytes. -/
theorem tagDifference_eq_zero (x y : Tag) : tagDifference x y = 0#8 ↔ ∀ i, i < 16 → byteAt x i = byteAt y i := by
  simp [tagDifference, foldl_or_eq_zero, BitVec.xor_eq_zero_iff]

end Sys2Proof.Machine
end

