-- ==== Sys2Proof/Laws/Step.lean ====
section
/-! SUPPORT. What a step can do, said once: the commands' steps, a host access, a turn. -/

namespace Sys2Proof.Machine

theorem exec_eq_execOn (i : Instr) (s : State) : exec i s = execOn Config.hw i s := by cases i <;> rfl

theorem exec_eq : exec = execOn Config.hw := funext fun i => funext fun s => exec_eq_execOn i s

theorem step_eq_stepOn (s : State) : step s = stepOn Config.hw s := by rw [step, stepOn, exec_eq]

theorem sequencerTurn_idle {ex : Instr → State → Result} {s : State} (h : s.phase = .idle) :
    sequencerTurn ex s = .next s := by
  simp [sequencerTurn, h]

theorem sequencerTurn_command {ex : Instr → State → Result} {s : State} {i : Instr} (h : s.phase ≠ .idle)
    (hd : decode s.cmdw = .command i) : sequencerTurn ex s = ex i s := by
  unfold sequencerTurn
  split
  · exact absurd ‹_› h
  · rw [hd]

theorem sequencerTurn_illegal {ex : Instr → State → Result} {s : State} {why : Illegal} (h : s.phase ≠ .idle)
    (hd : decode s.cmdw = .illegal why) : sequencerTurn ex s = illegalStep why s := by
  unfold sequencerTurn
  split
  · exact absurd ‹_› h
  · rw [hd]

theorem stepWith_nil {c : Config} {ex : Instr → State → Result} {s : State} (h : s.script = []) :
    stepWith c ex s = sequencerTurn ex s := by
  simp [stepWith, h]

theorem stepWith_cons {c : Config} {ex : Instr → State → Result} {s : State} {t : Turn} {rest : List Turn}
    (h : s.script = t :: rest) : stepWith c ex s = takeTurn c ex t (setScript rest s) := by
  simp [stepWith, h]

/-- Everything a command's step can answer. -/
theorem execOn_next {c : Config} {i : Instr} {s t : State} (h : execOn c i s = .next t) :
    (s.phase = .idle ∧ t = accept (encode i) s)
    ∨ (s.phase = .check ∧ (i = .encrypt ∨ i = .decrypt) ∧ t = checkLengths c (goTo .keygen) s)
    ∨ (s.phase = .check ∧ i = .pad ∧ t = checkLengths c (checkPadLength c) s)
    ∨ (s.phase = .check ∧ i = .deriveKey ∧ t = goTo .keygen s)
    ∨ (s.phase = .keygen ∧ i = .encrypt ∧ t = goTo .cipher (keygen c s))
    ∨ (s.phase = .keygen ∧ i = .decrypt ∧ t = goTo .mac (keygen c s))
    ∨ (s.phase = .keygen ∧ i = .deriveKey ∧ t = deriveKeyStaged (keygen c s))
    ∨ (s.phase = .cipher ∧ i = .encrypt ∧ t = cipher c .encryptionFailure (goTo .mac) s)
    ∨ (s.phase = .cipher ∧ i = .decrypt ∧ t = cipher c .decryptionFailure decryptStaged s)
    ∨ (s.phase = .mac ∧ i = .encrypt ∧ t = encryptMac c s)
    ∨ (s.phase = .mac ∧ i = .decrypt ∧ t = decryptMac c s)
    ∨ (s.phase = .compare ∧ i = .decrypt ∧ t = compareTags s)
    ∨ (s.phase = .padout ∧ i = .pad ∧ t = padOut c s)
    ∨ (s.phase = .commit ∧ t = commit s) := by
  cases i <;> cases hp : s.phase <;>
    simp only [execOn, encryptOn, decryptOn, padOn, deriveKeyOn, hp, Host.Outcome.next.injEq, reduceCtorEq] at h <;>
    subst h <;> simp

/-- Everything an illegal word's step can answer. -/
theorem illegalStep_next {why : Illegal} {s t : State} (h : illegalStep why s = .next t) :
    (s.phase = .idle ∧ t = s)
    ∨ (s.phase = .check ∧ t = fail .illegalCommand (illegalCause why) s)
    ∨ (s.phase = .commit ∧ t = commit s) := by
  cases hp : s.phase <;> simp only [illegalStep, hp, Host.Outcome.next.injEq, reduceCtorEq] at h <;> subst h <;> simp

/-- Everything a sequencer turn can answer. -/
theorem sequencerTurn_next {ex : Instr → State → Result} {s t : State} (h : sequencerTurn ex s = .next t) :
    (s.phase = .idle ∧ t = s)
    ∨ (s.phase ≠ .idle ∧ ∃ i, decode s.cmdw = .command i ∧ ex i s = .next t)
    ∨ (s.phase ≠ .idle ∧ ∃ why, decode s.cmdw = .illegal why ∧ illegalStep why s = .next t) := by
  by_cases hp : s.phase = .idle
  · rw [sequencerTurn_idle hp] at h
    cases h
    exact .inl ⟨hp, rfl⟩
  · cases hd : decode s.cmdw with
    | command i => exact .inr (.inl ⟨hp, i, rfl, by rwa [sequencerTurn_command hp hd] at h⟩)
    | illegal why => exact .inr (.inr ⟨hp, why, rfl, by rwa [sequencerTurn_illegal hp hd] at h⟩)

/-- Everything a host access can answer. -/
theorem hostAccess_next {c : Config} {addr : Nat} {go : Target → State} {t : State}
    (h : hostAccess c addr go = .next t) :
    ∃ off tgt, offsetOf c addr = some off ∧ targetOf c off = some tgt ∧ t = go tgt := by
  unfold hostAccess at h
  split at h
  · cases h
  · split at h
    · cases h
    · cases h; exact ⟨_, _, ‹_›, ‹_›, rfl⟩

theorem hostAccess_eq {c : Config} {addr off : Nat} {tgt : Target} (go : Target → State)
    (ho : offsetOf c addr = some off) (ht : targetOf c off = some tgt) : hostAccess c addr go = .next (go tgt) := by
  simp [hostAccess, ho, ht]

theorem hostAccess_outside {c : Config} {addr : Nat} (go : Target → State) (ho : offsetOf c addr = none) :
    hostAccess c addr go = .fault .outsideAperture := by
  simp [hostAccess, ho]

theorem hostAccess_busError {c : Config} {addr off : Nat} (go : Target → State)
    (ho : offsetOf c addr = some off) (ht : targetOf c off = none) : hostAccess c addr go = .fault .busError := by
  simp [hostAccess, ho, ht]

@[simp] theorem offsetOf_base (c : Config) (off : Nat) :
    offsetOf c (c.base + off) = if off < 2 ^ 23 then some off else none := by
  simp [offsetOf, apertureSize]

theorem offsetOf_eq_some {c : Config} {addr off : Nat} :
    offsetOf c addr = some off ↔ addr = c.base + off ∧ off < 2 ^ 23 := by
  unfold offsetOf apertureSize
  split <;> simp <;> omega

/-- An aligned offset below the windows is looked up in the register map. -/
theorem targetOf_register {c : Config} {off : Nat} (h4 : off % 4 = 0) (h : off < 0x100000) :
    targetOf c off = (registerMap.lookup off).map .reg := by
  have h₁ : ¬ aadWindow ≤ off := by unfold aadWindow; omega
  have h₂ : ¬ dataWindow ≤ off := by unfold dataWindow; omega
  have h₃ : ¬ outWindow ≤ off := by unfold outWindow; omega
  simp [targetOf, h4, h₁, h₂, h₃]

end Sys2Proof.Machine
end

