-- ==== Sys2Proof/Laws/Bus.lean ====
section
/-! SUPPORT. One host access as one step: a register, a window word. -/

namespace Sys2Proof.Machine

/-- A host write whose offset names `tgt`. -/
theorem step_write {s : State} {off : Nat} {v : Word} {rest : List Turn} {tgt : Target}
    (h : s.script = .write (Config.hw.base + off) v :: rest) (hlt : off < 2 ^ 23)
    (ht : targetOf Config.hw off = some tgt) :
    step s = .next (respond .written (writeTarget Config.hw v tgt (setScript rest s))) := by
  rw [step, stepWith_cons h, takeTurn, hostWrite, hostAccess_eq _ (offsetOf_eq_some.2 ⟨rfl, hlt⟩) ht]

/-- A host read whose offset names `tgt`. -/
theorem step_read {s : State} {off : Nat} {rest : List Turn} {tgt : Target}
    (h : s.script = .read (Config.hw.base + off) :: rest) (hlt : off < 2 ^ 23)
    (ht : targetOf Config.hw off = some tgt) :
    step s = .next (respond (.data (readTarget Config.hw (setScript rest s) tgt)) (setScript rest s)) := by
  rw [step, stepWith_cons h, takeTurn, hostRead, hostAccess_eq _ (offsetOf_eq_some.2 ⟨rfl, hlt⟩) ht]

/-- The target of a register's offset, from the register map. -/
theorem targetOf_of_lookup {off : Nat} {r : Reg} (c : Config) (hl : registerMap.lookup off = some r) (h4 : off % 4 = 0)
    (hlt : off < 0x100000) : targetOf c off = some (.reg r) := by
  rw [targetOf_register h4 hlt, hl]; rfl

theorem targetOf_aad {c : Config} {i : Nat} (h : 4 * i < c.aadCap) :
    targetOf c (0x100000 + 4 * i) = some (.aad (4 * i)) := by
  have h₁ : (0x100000 + 4 * i) % 4 = 0 := by omega
  simp [targetOf, h₁, aadWindow, h]

theorem targetOf_data {c : Config} (hc : c.wellFormed = true) {i : Nat} (h : 4 * i < c.dataCap) :
    targetOf c (0x200000 + 4 * i) = some (.data (4 * i)) := by
  have hw := (Config.wellFormed_iff c).1 hc
  have h₁ : (0x200000 + 4 * i) % 4 = 0 := by omega
  have h₂ : ¬ (0x200000 + 4 * i < 0x100000 + c.aadCap) := by omega
  simp [targetOf, h₁, aadWindow, dataWindow, h₂, h]

theorem targetOf_out {c : Config} (hc : c.wellFormed = true) {i : Nat} (h : 4 * i < c.outCap) :
    targetOf c (0x400000 + 4 * i) = some (.out (4 * i)) := by
  have hw := (Config.wellFormed_iff c).1 hc
  have h₁ : (0x400000 + 4 * i) % 4 = 0 := by omega
  have h₂ : ¬ (0x400000 + 4 * i < 0x100000 + c.aadCap) := by omega
  have h₃ : ¬ (0x400000 + 4 * i < 0x200000 + c.dataCap) := by omega
  simp [targetOf, h₁, aadWindow, dataWindow, outWindow, h₂, h₃, h]

end Sys2Proof.Machine
end

