-- ==== Sys2Proof/Laws/PerInstr.lean ====
section
/-! SUPPORT. Statements about every command as syntax, one lemma a constructor. -/

namespace Sys2Proof.Laws.CommandWord

/-- The word of a command is well-formed: its reserved bits are zero and its opcode is assigned (30_encoding.md R120 to
R122). -/
def Statement (i : Instr) : Prop := wordWellFormed (encode i) = true

theorem encrypt : Statement .encrypt := by unfold Statement; decide
theorem decrypt : Statement .decrypt := by unfold Statement; decide
theorem pad : Statement .pad := by unfold Statement; decide
theorem deriveKey : Statement .deriveKey := by unfold Statement; decide

end Sys2Proof.Laws.CommandWord
end

