-- ==== Sys2Proof/Laws/Run.lean ====
section
/-! SUPPORT. Runs of one command: the host's CMD write, then the sequencer's turns one by one; what a frame says about the
operands. -/

namespace Sys2Proof.Machine

variable {c : Config} {s : State}

@[simp] theorem runOn_zero (s : State) : runOn c 0 s = .next s := rfl

/-- The host's CMD write on an idle block is the accept. -/
theorem runOn_accept (n : Nat) (w : Word) (hb : s.busy = false) : runOn c (n + 1) (withCmdWrite c w s) =
    runOn c n (respond .written (accept w (setScript [] (withCmdWrite c w s)))) := by
  have ht : targetOf c 4 = some (.reg .cmd) := by rw [targetOf_register (by decide) (by decide)]; rfl
  have hstep : stepOn c (withCmdWrite c w s) =
      .next (respond .written (accept w (setScript [] (withCmdWrite c w s)))) := by
    rw [stepOn, stepWith_cons (t := .write (c.base + 4) w) (rest := []) rfl, takeTurn, hostWrite,
      hostAccess_eq _ (offsetOf_eq_some.2 ⟨rfl, by omega⟩) ht]
    simp only [writeTarget, writeReg]
    rw [cmdWrite_idle (s := setScript [] (withCmdWrite c w s)) w hb]
  simp only [runOn, hstep]

/-- One sequencer turn of a command, with no host turn to come. -/
theorem runOn_command {u v : State} {i : Instr} (n : Nat) (hs : u.script = []) (hp : u.phase ≠ .idle)
    (hd : decode u.cmdw = .command i) (he : execOn c i u = .next v) : runOn c (n + 1) u = runOn c n v := by
  have hstep : stepOn c u = .next v := by rw [stepOn, stepWith_nil hs, sequencerTurn_command hp hd, he]
  simp only [runOn, hstep]

/-- One sequencer turn of an illegal word, with no host turn to come. -/
theorem runOn_illegal {u v : State} {why : Illegal} (n : Nat) (hs : u.script = []) (hp : u.phase ≠ .idle)
    (hd : decode u.cmdw = .illegal why) (he : illegalStep why u = .next v) : runOn c (n + 1) u = runOn c n v := by
  have hstep : stepOn c u = .next v := by rw [stepOn, stepWith_nil hs, sequencerTurn_illegal hp hd, he]
  simp only [runOn, hstep]

theorem SameInputs.trans {s t u : State} (h : SameInputs s t) (h' : SameInputs t u) : SameInputs s u := by
  obtain ⟨⟨a1, a2, a3, a4, a5⟩, ⟨b1, b2, b3⟩, c1, c2⟩ := h
  obtain ⟨⟨a1', a2', a3', a4', a5'⟩, ⟨b1', b2', b3'⟩, c1', c2'⟩ := h'
  simp [SameInputs, *]

theorem dataOperand_of_sameInputs {s t : State} (h : SameInputs s t) : dataOperand c t = dataOperand c s := by
  obtain ⟨⟨-, -, -, -, hl⟩, ⟨-, hm, hp⟩, -, -⟩ := h
  simp [dataOperand, dataLength, inUnlisted, hl, hm, hp]

theorem aadOperand_of_sameInputs {s t : State} (h : SameInputs s t) : aadOperand c t = aadOperand c s := by
  obtain ⟨⟨-, -, -, hl, -⟩, ⟨hm, -, hp⟩, -, -⟩ := h
  simp [aadOperand, aadLength, aadUnlisted, hl, hm, hp]

theorem readBytes_zero (d : Nat → Byte) (m : Memory) (n : Nat) :
    Memory.readBytes d m 0 n = (List.range n).map (Memory.read d m) := by
  simp [Memory.readBytes]

theorem dataOperand_eq : dataOperand c s = (List.range s.dataLen.toNat).map (inByte c s) := readBytes_zero _ _ _

theorem aadOperand_eq : aadOperand c s = (List.range s.aadLen.toNat).map (aadByte c s) := readBytes_zero _ _ _

/-- What the start of a buffer reads as after the bytes were put there. -/
theorem read_writeBytes_zero {d : Nat → Byte} (m : Memory) (bs : List Byte) (a : Nat) :
    Memory.read d (Memory.writeBytes d m 0 bs) a = if h : a < bs.length then bs[a] else Memory.read d m a := by
  rw [Memory.read_writeBytes]; simp

/-- The bytes put at the start of a buffer, read back. -/
theorem readBytes_writeBytes {d : Nat → Byte} (m : Memory) (bs : List Byte) :
    Memory.readBytes d (Memory.writeBytes d m 0 bs) 0 bs.length = bs := by
  refine List.ext_getElem (by simp) fun i h₁ h₂ => ?_
  simp [Memory.readBytes, read_writeBytes_zero, h₂]

end Sys2Proof.Machine
end

