-- ==== Sys2Proof/Machine/Chacha20.lean ====
section
/-! DEFINITION. The RFC 8439 ChaCha20 block function (45_collaborators.md R250 to R252, general knowledge): the reference
instance of SC_BLOCK. No definition of the machine uses it (91 N13); it is what a configuration of the tests takes. -/

namespace Sys2Proof.Machine

/-- The quarter round (R251). -/
def quarterRound (a b c d : Word) : Word × Word × Word × Word :=
  let a := a + b
  let d := (d ^^^ a).rotateLeft 16
  let c := c + d
  let b := (b ^^^ c).rotateLeft 12
  let a := a + b
  let d := (d ^^^ a).rotateLeft 8
  let c := c + d
  let b := (b ^^^ c).rotateLeft 7
  (a, b, c, d)

/-- QR(i, j, k, l) on the working state (R252). -/
def quarterRoundAt (i j k l : Nat) (w : List Word) : List Word :=
  match quarterRound (w.getD i 0#32) (w.getD j 0#32) (w.getD k 0#32) (w.getD l 0#32) with
  | (a, b, c, d) => (((w.set i a).set j b).set k c).set l d

/-- One double round: four column rounds, then four diagonal rounds (R252). -/
def doubleRound (w : List Word) : List Word :=
  let w := quarterRoundAt 3 7 11 15 (quarterRoundAt 2 6 10 14 (quarterRoundAt 1 5 9 13 (quarterRoundAt 0 4 8 12 w)))
  quarterRoundAt 3 4 9 14 (quarterRoundAt 2 7 8 13 (quarterRoundAt 1 6 11 12 (quarterRoundAt 0 5 10 15 w)))

/-- `n` double rounds. -/
def doubleRounds : Nat → List Word → List Word
  | 0, w => w
  | n + 1, w => doubleRounds n (doubleRound w)

/-- The initial state: four constants, the key, the 32-bit counter, the nonce (R250). -/
def chachaState (k : Key) (ctr : DWord) (n : Nonce) : List Word :=
  [0x61707865#32, 0x3320646E#32, 0x79622D32#32, 0x6B206574#32]
    ++ (List.range 8).map (wordAt k) ++ [wordAt ctr 0] ++ (List.range 3).map (wordAt n)

/-- The sixteen output words (R252). -/
def chachaWords (k : Key) (ctr : DWord) (n : Nonce) : List Word :=
  List.zipWith (· + ·) (doubleRounds 10 (chachaState k ctr n)) (chachaState k ctr n)

/-- A block from its words, word 0 first, each little-endian (R252). -/
def packWords : List Word → KeystreamBlock
  | [] => 0#512
  | w :: ws => packWords ws <<< 32 ||| w.setWidth 512

/-- The instance of SC_BLOCK. R250 defines it for counters below 2^32 only: at any other counter it is a free value. -/
def chachaBlock (k : Key) (ctr : DWord) (n : Nonce) : KeystreamBlock :=
  if ctr.toNat < 2 ^ 32 then packWords (chachaWords k ctr n) else Config.freeScBlock k ctr n

end Sys2Proof.Machine
end

