-- ==== Sys2Proof/Machine/HostNotation.lean ====
section
/-! DEFINITION. The notation of a host's program (30_encoding.md R127) and its pseudo-instructions (R128). The block has no
program memory: a program is the host's own sequence of bus transactions, so what a line does to the block is the turn
it puts on the bus, and labels, BNZ and assertions are the host's (log entries 19 and 23). -/

namespace Sys2Proof.Machine

/-- One line (R127). `r32 off mask expect` is `R32 off` (every bit of the mask set, nothing expected), `R32 off == v`,
`R32 off & m == v`, and the masked read without an assertion that R128's WAIT uses. -/
inductive HostLine where
  | w32 (off : Nat) (v : Word)
  | r32 (off : Nat) (mask : Word) (expect : Option Word)
  | label (name : String)
  | bnz (name : String)
deriving DecidableEq, Repr

/-- The bus transaction of a line, the encoding column of R127; `none` on the bus for a label and BNZ. -/
def lineTurn (base : Nat) : HostLine → Option Turn
  | .w32 off v   => some (.write (base + off) v)
  | .r32 off _ _ => some (.read (base + off))
  | .label _     => none
  | .bnz _       => none

/-- Where the host is in its program, and the masked value of its last read. -/
structure HostPlace where
  line : Nat
  last : Word
deriving DecidableEq, Repr

/-- The place after a read that returned `v`: `none` where the line's assertion fails (R127). -/
def afterRead (p : HostPlace) (mask : Word) (expect : Option Word) (v : Word) : Option HostPlace :=
  if expect.any (fun e => e != v &&& mask) then none else some ⟨p.line + 1, v &&& mask⟩

/-- The place after the program's current line, given what the bus returned: `none` where the host's program stops on an
assertion, a jump to no label, or a read without data. A BNZ to a label that stands more than once takes the first one, and
a program at its end stays there: R127 is silent on these, DESIGN CHOICE, log entry 23. -/
def afterLine (prog : List HostLine) (p : HostPlace) (r : Response) : Option HostPlace :=
  match prog[p.line]? with
  | none => some p
  | some (.w32 _ _) => some ⟨p.line + 1, p.last⟩
  | some (.r32 _ mask expect) =>
    match r with
    | .data v  => afterRead p mask expect v
    | .none    => none
    | .written => none
  | some (.label _) => some ⟨p.line + 1, p.last⟩
  | some (.bnz name) =>
    if p.last = 0#32 then some ⟨p.line + 1, p.last⟩
    else (prog.findIdx? (fun l => l == .label name)).map fun i => ⟨i, p.last⟩

/-- Word `i` of a byte sequence, zero-filled above its end (R128). -/
def packedWord (s : List Byte) (i : Nat) : Word := BitVec.ofNat 32 (leValue ((s.drop (4 * i)).take 4))

/-- `W32` of `n` words of `s` from offset `off` on. -/
def storeWords (off n : Nat) (s : List Byte) : List HostLine :=
  (List.range n).map fun i => .w32 (off + 4 * i) (packedWord s i)

/-- The pseudo-instructions (R128), each its expansion. -/
def setKey (s : List Byte) : List HostLine := storeWords 0x040 8 s
def setNonce (s : List Byte) : List HostLine := storeWords 0x060 3 s
def setTag (s : List Byte) : List HostLine := storeWords 0x070 4 s
def setLenAad (n : Nat) : List HostLine :=
  [.w32 0x010 (BitVec.ofNat 32 (n % 2 ^ 32)), .w32 0x014 (BitVec.ofNat 32 (n / 2 ^ 32))]
def setLenData (n : Nat) : List HostLine :=
  [.w32 0x018 (BitVec.ofNat 32 (n % 2 ^ 32)), .w32 0x01C (BitVec.ofNat 32 (n / 2 ^ 32))]
def fillAad (s : List Byte) : List HostLine := storeWords aadWindow ((s.length + 3) / 4) s
def fillIn (s : List Byte) : List HostLine := storeWords dataWindow ((s.length + 3) / 4) s
def issue (i : Instr) : List HostLine := [.w32 0x004 (encode i)]
/-- WAIT (R128). Its expansion there is `waitIdle "w"`; the label's name is an argument, so that a program that waits twice
can give each WAIT a label of its own (DESIGN CHOICE, log entry 23). -/
def waitIdle (name : String) : List HostLine := [.label name, .r32 0x008 0x1#32 none, .bnz name]
def ack : List HostLine := [.w32 0x008 0x2#32]
def sreset : List HostLine := [.w32 0x000 0x2#32]

end Sys2Proof.Machine
end

