-- ==== Sys2Proof/Machine/Poly1305.lean ====
section
/-! DEFINITION. RFC 8439 Poly1305 (45_collaborators.md R255, general knowledge): the reference instance of MA_COMPUTE. No
definition of the machine uses it (91 N13). -/

namespace Sys2Proof.Machine

/-- The prime `2^130 - 5` (R255). -/
def polyPrime : Nat := 2 ^ 130 - 5

/-- The multiplier `r`: the first 16 key bytes, clamped (R255). -/
def polyR (k : Key) : Nat := (k.extractLsb' 0 128).toNat &&& 0x0ffffffc0ffffffc0ffffffc0fffffff

/-- The final addend `s`: the last 16 key bytes (R255). -/
def polyS (k : Key) : Nat := (k.extractLsb' 128 128).toNat

/-- The accumulator over the 16-byte chunks of `m`, the last of which may be shorter; `fuel` bounds how many there are
(R255). -/
def polyAcc (r : Nat) : Nat → List Byte → Nat → Nat
  | 0, _, acc => acc
  | _ + 1, [], acc => acc
  | fuel + 1, m, acc => polyAcc r fuel (m.drop 16) ((acc + leValue (m.take 16 ++ [0x01#8])) * r % polyPrime)

/-- The instance of MA_COMPUTE (R255). -/
def polyTag (m : List Byte) (k : Key) : Tag := BitVec.ofNat 128 (polyAcc (polyR k) m.length m 0 + polyS k)

end Sys2Proof.Machine
end

