-- ==== Sys2Proof/Machine/Reference.lean ====
section
/-! DEFINITION. The configurations of 95_test_vectors.md section 0, over the RFC 8439 reference instance (45_collaborators.md
R250 to R256): what the model is checked against the spec's vectors with. The hardware's configuration is
`Config.hw`, of which nothing here says anything. -/

namespace Sys2Proof.Machine

/-- A configuration with the reference instance; the draws at power-on stay an argument. -/
def referenceConfig (aadCap dataCap outCap scMaxCounter : Nat) (po : Nat → Nat → Byte) : Config where
  aadCap       := aadCap
  dataCap      := dataCap
  outCap       := outCap
  scMaxCounter := scMaxCounter
  scBlock      := chachaBlock
  maCompute    := polyTag
  base         := 0
  poAad        := po
  poIn         := po

/-- CFG-E. -/
def cfgE (po : Nat → Nat → Byte) : Config := referenceConfig 1024 4096 5136 (2 ^ 32 - 1) po
/-- CFG-L: the apply port limited to counter 1. -/
def cfgL (po : Nat → Nat → Byte) : Config := referenceConfig 1024 4096 5136 1 po
/-- CFG-S. -/
def cfgS (po : Nat → Nat → Byte) : Config := referenceConfig 16 16 32 (2 ^ 32 - 1) po

end Sys2Proof.Machine
end

