-- ==== Sys2Proof/Tests/Slice0.lean ====
section
/-! SUPPORT. The model's own tests. Expected values come from the spec: its encodings, its rules, and the vectors of
95_test_vectors.md (named in each comment). Below them one witness a statement that has hypotheses. -/

namespace Sys2Proof.Tests

open Sys2Proof.Machine

set_option maxRecDepth 20000

/-! ### Helpers -/

/-- The next state, if there is one. -/
def next? : Result → Option State
  | .next s => some s
  | .fault _ => none
  | .refused _ => none

/-- The fault, if it is one. -/
def fault? : Result → Option Fault
  | .next _ => none
  | .fault r => some r
  | .refused _ => none

/-- The next state, or the reset state. -/
def after (r : Result) : State := (next? r).getD State.reset

theorem eq_next_after {r : Result} (h : (next? r).isSome = true) : r = .next (after r) := by
  cases r <;> first | rfl | cases h

/-- Draws that are all zero. -/
def zeroDraws : Nat → Nat → Byte := fun _ _ => 0#8

/-- A number's `n` bytes, most significant first: how the vectors write a byte sequence. -/
def hexBytes (n v : Nat) : List Byte := (List.range n).map fun i => BitVec.ofNat 8 (v / 2 ^ (8 * (n - 1 - i)))

/-- A register group's value from its bytes. -/
def packed (w : Nat) (bs : List Byte) : BitVec w := BitVec.ofNat w (leValue bs)

/-- K_RFC, N_RFC, A_RFC, P_RFC, C_RFC, T_RFC of 95_test_vectors.md section 0. -/
def kRfc : Key := packed 256 ((List.range 32).map fun i => BitVec.ofNat 8 (0x80 + i))
def nRfc : Nonce := packed 96 (hexBytes 12 0x070000004041424344454647)
def aRfc : List Byte := hexBytes 12 0x50515253c0c1c2c3c4c5c6c7
def pRfc : List Byte :=
  "Ladies and Gentlemen of the class of '99: If I could offer you only one tip for the future, sunscreen would be it.".toList.map
    fun c => BitVec.ofNat 8 c.toNat
def cRfc : List Byte :=
  hexBytes 32 0xd31a8d34648e60db7b86afbc53ef7ec2a4aded51296e08fea9e2b5a736ee62d6
    ++ hexBytes 32 0x3dbea45e8ca9671282fafb69da92728b1a71de0a9e060b2905d6a5b67ecd3b36
    ++ hexBytes 32 0x92ddbd7f2d778b8c9803aee328091b58fab324e4fad675945585808b4831d7bc
    ++ hexBytes 18 0x3ff4def08e4b7a9de576d26586cec64b6116
def tRfc : Tag := packed 128 (hexBytes 16 0x1ae10b594f09e26a7e902ecbd0600691)
def mkRfc : Key := packed 256 (hexBytes 32 0x7bac2b252db447af09b67a55a4e955840ae1d6731075d9eb2a9375783ed553ff)

/-- A byte buffer that holds `bs` from offset 0 on, all else zero. -/
def buffer (bs : List Byte) : Memory := Memory.writeBytes zeroUnlisted [] 0 bs

/-- A block in phase `p` of the command `i`, with the operands of V-E1 and the data bytes `d`. -/
def running (p : Phase) (i : Instr) (d : List Byte) : State :=
  { State.reset with
    busy := true, lastOpc := opcodeOf (encode i), cmdw := encode i, phase := p
    key := kRfc, nonce := nRfc, aadLen := 12#64, aadMem := buffer aRfc
    dataLen := BitVec.ofNat 64 d.length, inMem := buffer d }

/-! ### The checks refuse ill-formed terms (30_encoding.md R120 to R122, 00_scope.md R8) -/

theorem test_word_commands :
    wordWellFormed 0x1#32 ∧ wordWellFormed 0x2#32 ∧ wordWellFormed 0x3#32 ∧ wordWellFormed 0x4#32 := by decide
theorem test_word_reserved_bits_refused :
    reservedBitsZero 0x10#32 = false ∧ wordWellFormed 0x10#32 = false ∧ wordWellFormed 0x80000001#32 = false := by decide
theorem test_word_opcode_refused :
    opcodeAssigned 0x0#32 = false ∧ opcodeAssigned 0x5#32 = false ∧ opcodeAssigned 0xF#32 = false
      ∧ wordWellFormed 0x7#32 = false := by decide
theorem test_config_vectors :
    (cfgE zeroDraws).wellFormed ∧ (cfgL zeroDraws).wellFormed ∧ (cfgS zeroDraws).wellFormed := by decide +kernel
theorem test_config_capacity_refused :
    Config.wellFormed { cfgE zeroDraws with aadCap := 17 } = false
      ∧ Config.wellFormed { cfgE zeroDraws with aadCap := 0 } = false
      ∧ Config.wellFormed { cfgE zeroDraws with dataCap := 2 ^ 20 + 16, outCap := 2 ^ 22 } = false := by decide +kernel
theorem test_config_output_refused :
    Config.wellFormed { cfgS zeroDraws with outCap := 16 } = false
      ∧ Config.wellFormed { cfgE zeroDraws with outCap := 4080 } = false
      ∧ Config.wellFormed { cfgE zeroDraws with outCap := 2 ^ 22 + 16 } = false := by decide +kernel
theorem test_config_counter_refused :
    Config.wellFormed { cfgE zeroDraws with scMaxCounter := 0 } = false
      ∧ Config.wellFormed { cfgE zeroDraws with scMaxCounter := 2 ^ 64 } = false := by decide +kernel
theorem test_config_base_refused : Config.wellFormed { cfgE zeroDraws with base := 4 } = false := by decide +kernel

/-! ### Decoding, the words written out from the table of 30_encoding.md R121 (V-W1 to V-W9, V-K6) -/

theorem test_decode_encrypt : decodeTableWord 32 0b00000000000000000000000000000001 = some .encrypt := by decide
theorem test_decode_decrypt : decodeTableWord 32 0b00000000000000000000000000000010 = some .decrypt := by decide
theorem test_decode_pad : decodeTableWord 32 0b00000000000000000000000000000011 = some .pad := by decide
theorem test_decode_deriveKey : decodeTableWord 32 0b00000000000000000000000000000100 = some .deriveKey := by decide
theorem test_decode_bad_opcode :
    decode 0x0#32 = .illegal .badOpcode ∧ decode 0x5#32 = .illegal .badOpcode ∧ decode 0x7#32 = .illegal .badOpcode
      ∧ decodeTableWord 32 0xF = none := by decide
theorem test_decode_reserved_bits_first :
    decode 0x10#32 = .illegal .reservedBits ∧ decode 0x80000001#32 = .illegal .reservedBits
      ∧ decode 0x17#32 = .illegal .reservedBits ∧ decode 0x14#32 = .illegal .reservedBits := by decide

/-! ### The commands, one step each -/

/-- V-E1's ciphertext and its `Apply` event. -/
theorem test_encrypt_cipher :
    (next? (encryptOn (cfgE zeroDraws) (running .cipher .encrypt pRfc))).map
        (fun t => (Memory.readBytes zeroUnlisted t.stage 0 115, t.stageLen, t.phase, t.log)) =
      some (cRfc ++ [0#8], 114, .mac, [.apply kRfc nRfc 1#64 pRfc .ok]) := by decide +kernel
/-- V-E1's tag, over V-PD8's 160 bytes. -/
theorem test_encrypt_mac :
    (next? (encryptOn (cfgE zeroDraws)
        { running .mac .encrypt pRfc with mackey := mkRfc, stage := buffer cRfc, stageLen := 114 })).map
        (fun t => (t.stageTag, t.phase, t.tagOut)) = some (tRfc, .commit, 0#128) := by decide +kernel
/-- V-D2: byte 0 of the tag 1a changed to 1b. -/
theorem test_decrypt_compare_mismatch :
    (next? (decryptOn (cfgE zeroDraws)
        { running .compare .decrypt cRfc with expTag := tRfc, tagIn := tRfc ^^^ 1#128 })).map
        (fun t => (t.phase, t.result, t.log)) =
      some (.commit, (.authenticationFailure, .tagMismatch), []) := by decide +kernel
/-- V-D6: 65 bytes need counter 2, beyond SC_MAX_COUNTER = 1. -/
theorem test_decrypt_stream_limit :
    (next? (decryptOn (cfgL zeroDraws) (running .cipher .decrypt (zeros 65)))).map
        (fun t => (t.phase, t.result, t.stage.isEmpty, t.log)) =
      some (.commit, (.decryptionFailure, .streamLimit), true,
        [.apply kRfc nRfc 1#64 (zeros 65) .streamCipherError]) := by decide +kernel
/-- V-PD6: both halves padded, both lengths odd. -/
theorem test_pad_padout :
    (next? (padOn (cfgE zeroDraws)
        { running .padout .pad (List.replicate 17 2#8) with
          aadLen := 15#64, aadMem := buffer (List.replicate 15 1#8) })).map
        (fun t => (Memory.readBytes zeroUnlisted t.stage 0 t.stageLen, t.phase, t.log)) =
      some (List.replicate 15 1#8 ++ [0#8] ++ List.replicate 17 2#8 ++ zeros 15 ++ [0x0f#8] ++ zeros 7 ++ [0x11#8]
        ++ zeros 7, .commit, []) := by decide +kernel
/-- V-PD13 and V-PD14: under CFG-S 48 bytes do not fit; the AAD check comes first. -/
theorem test_pad_check :
    (next? (padOn (cfgS zeroDraws) { running .check .pad [0#8] with aadLen := 1#64 })).map (fun t => t.result) =
        some (.lengthError, .padTooLong)
      ∧ (next? (padOn (cfgS zeroDraws) { running .check .pad (zeros 17) with aadLen := 17#64 })).map (fun t => t.result) =
        some (.lengthError, .aadTooLong) := by decide +kernel
/-- V-K1 (RFC 8439 section 2.6.2). -/
theorem test_deriveKey_keygen :
    (next? (deriveKeyOn (cfgE zeroDraws)
        { running .keygen .deriveKey [] with nonce := packed 96 (hexBytes 12 0x000000000001020304050607) })).map
        (fun t => (Memory.readBytes zeroUnlisted t.stage 0 33, t.stageLen, t.phase)) =
      some (hexBytes 32 0x8ad5a08b905f81cc815040274ab29471a833b637e3fd0da508dbb8e2fdd1a646 ++ [0#8], 32, .commit) := by
  decide +kernel
/-- V-K5: DERIVE_KEY reads neither length. -/
theorem test_deriveKey_check :
    (next? (deriveKeyOn (cfgE zeroDraws)
        { running .check .deriveKey [] with aadLen := BitVec.allOnes 64, dataLen := BitVec.allOnes 64 })).map
        (fun t => (t.phase, t.result)) = some (.keygen, (.ok, .none)) := by decide +kernel
/-- V-W8: not ENCRYPT. -/
theorem test_illegal_word :
    (next? (stepOn (cfgE zeroDraws) { running .check .encrypt [] with cmdw := 0x80000001#32 })).map (fun t => t.result) =
      some (.illegalCommand, .reservedBits) := by decide +kernel
/-- The commit of V-E6: STATUS 0x0000_1112, nothing put out, the key wiped. -/
theorem test_commit_failed :
    (next? (stepOn (cfgL zeroDraws)
        { running .commit .encrypt [] with result := (.encryptionFailure, .streamLimit), mackey := mkRfc })).map
        (fun t => (statusWord t, t.outLen, t.mackey, t.log)) =
      some (0x1112#32, 0#64, 0#256, [.commit .encryptionFailure .streamLimit]) := by decide +kernel
/-- V-H5: a soft reset mid-command. -/
theorem test_soft_reset_aborts :
    (next? (stepOn (cfgE zeroDraws)
        { running .compare .decrypt cRfc with script := [.write 0x000 0x2#32] })).map
        (fun t => (statusWord t, t.phase, t.key, t.log, t.inMem == buffer cRfc)) =
      some (0#32, .idle, 0#256, [.abort], true) := by decide +kernel

/-! ### Registers and bus (10_state.md, 20_memory.md; V-R1 to V-R14, V-H2) -/

/-- The response to a read at an offset. -/
def readAt (c : Config) (off : Nat) (s : State) : Option Response := (next? (hostRead c (c.base + off) s)).map (·.response)

/-- V-R1, V-R3, V-R13. -/
theorem test_read_capacities :
    readAt (cfgE zeroDraws) 0x028 State.reset = some (.data 0x400#32)
      ∧ readAt (cfgE zeroDraws) 0x02C State.reset = some (.data 0x1000#32)
      ∧ readAt (cfgE zeroDraws) 0x030 State.reset = some (.data 0x1410#32)
      ∧ readAt (cfgE zeroDraws) 0x004 State.reset = some (.data 0#32)
      ∧ readAt (cfgE zeroDraws) 0x40140C State.reset = some (.data 0#32) := by decide +kernel
/-- V-R2: the key byte is written, the read returns 0. -/
theorem test_key_write_only :
    (next? (hostWrite (cfgE zeroDraws) 0x040 0x83828180#32 State.reset)).map
        (fun t => (t.key, readAt (cfgE zeroDraws) 0x040 t)) = some (0x83828180#256, some (.data 0#32)) := by decide +kernel
/-- V-R4. -/
theorem test_ctrl_sets_irq_en_only :
    (next? (hostWrite (cfgE zeroDraws) 0x000 0xFFFFFFFD#32 State.reset)).map
        (fun t => readAt (cfgE zeroDraws) 0x000 t) = some (some (.data 0x1#32)) := by decide +kernel
/-- V-R8 to V-R12. -/
theorem test_bus_errors :
    fault? (hostRead (cfgE zeroDraws) 0x002 State.reset) = some .busError
      ∧ fault? (hostRead (cfgE zeroDraws) 0x00C State.reset) = some .busError
      ∧ fault? (hostRead (cfgE zeroDraws) 0x100400 State.reset) = some .busError
      ∧ fault? (hostRead (cfgE zeroDraws) 0x300000 State.reset) = some .busError
      ∧ fault? (hostRead (cfgE zeroDraws) 0x401410 State.reset) = some .busError := by decide +kernel
/-- V-R14. -/
theorem test_status_write_one_to_clear :
    statusWord (statusWrite 0xFFFFFFFF#32
      { State.reset with done := true, overrun := true, err := .lengthError, cause := .aadTooLong, lastOpc := 1#4 }) =
      0x1350#32 := by decide
/-- V-H2: the second CMD write only sets OVERRUN. -/
theorem test_overrun :
    (next? (hostWrite (cfgE zeroDraws) 0x004 0x3#32 (accept 0x1#32 State.reset))).map
        (fun t => (statusWord t, t.cmdw, t.log)) = some (0x1005#32, 0x1#32, [.accept 0x1#32]) := by decide +kernel
/-- 20_memory.md R90: the byte at the lower offset is the less significant. -/
theorem test_window_byte_order :
    (next? (hostWrite (cfgE zeroDraws) 0x200004 0x6964614C#32 State.reset)).map
        (fun t => (Memory.readBytes zeroUnlisted t.inMem 4 4, readAt (cfgE zeroDraws) 0x200004 t)) =
      some ([0x4c#8, 0x61#8, 0x64#8, 0x69#8], some (.data 0x6964614C#32)) := by decide +kernel

/-! ### The sub-units and the reference instance -/

/-- 95_test_vectors.md section 2: ru16 and le64. -/
theorem test_ru16_le64 :
    [0, 1, 15, 16, 17, 114, 1024].map ru16 = [0, 16, 16, 16, 32, 128, 1024]
      ∧ le64 0x0102030405060708 = [8#8, 7#8, 6#8, 5#8, 4#8, 3#8, 2#8, 1#8] := by decide +kernel
/-- V-T2, V-T3, V-T4, V-T7. -/
theorem test_comparator :
    tagDifference tRfc tRfc = 0x00#8 ∧ tagDifference tRfc (tRfc ^^^ 1#128) = 0x01#8
      ∧ tagDifference tRfc (tRfc ^^^ (0x80#128 <<< 120)) = 0x80#8
      ∧ tagDifference (packed 128 (hexBytes 16 0x000102030405060708090a0b0c0d0e0f))
          (packed 128 (hexBytes 16 0x0f0e0d0c0b0a09080706050403020100)) = 0x0f#8 := by decide +kernel
/-- V-C1 (RFC 8439 section 2.3.2). -/
theorem test_reference_block :
    chachaBlock (packed 256 ((List.range 32).map (BitVec.ofNat 8))) 1#64
        (packed 96 (hexBytes 12 0x000000090000004a00000000)) =
      packed 512 (hexBytes 32 0x10f1e7e4d13b5915500fdd1fa32071c4c7d1f4c733c068030422aa9ac3d46c4e
        ++ hexBytes 32 0xd2826446079faa0914c2d705d98b02a2b5129cd1de164eb9cbd083e8a2503c4e) := by decide +kernel
/-- V-P1 (RFC 8439 section 2.5.2). -/
theorem test_reference_tag :
    polyTag ("Cryptographic Forum Research Group".toList.map fun c => BitVec.ofNat 8 c.toNat)
        (packed 256 (hexBytes 32 0x85d6be7857556d337f4452fe42d506a80103808afb0db2fd4abff6af4149f51b)) =
      packed 128 (hexBytes 16 0xa8061dc1305136c6c22b8baf0c0127a9) := by decide +kernel
/-- 30_encoding.md R128: SETNONCE of N_RFC, its words as section 0 of the vectors gives them; SETLEN in two halves. -/
theorem test_host_notation :
    setNonce (hexBytes 12 0x070000004041424344454647) =
        [.w32 0x060 0x00000007#32, .w32 0x064 0x43424140#32, .w32 0x068 0x47464544#32]
      ∧ setLenAad 0x100000000 = [.w32 0x010 0#32, .w32 0x014 1#32] := by decide +kernel

/-! ### Witnesses: states and operands that meet a statement's hypotheses, at the ends of its ranges -/

/-- The reset state with the turns `l` to come. -/
def idleWith (l : List Turn) : State := { State.reset with script := l }

/-- An ENCRYPT just accepted, with the turns `l` to come. -/
def busyWith (l : List Turn) : State := { accept (encode .encrypt) State.reset with script := l }

/-- An idle block with lengths, a tag and an input buffer of its own. -/
def idleOperands (a d : DWord) (t : Tag) (m : Memory) : State :=
  { State.reset with aadLen := a, dataLen := d, tagIn := t, inMem := m }

/-- Such a block meets the invariant if its buffer does. -/
theorem inv_idleOperands {c : Config} (a d : DWord) (t : Tag) {m : Memory} (hw : Memory.wf (c.poIn 0) m = true)
    (hb : Memory.below c.dataCap m = true) : Inv c (idleOperands a d t m) where
  flags := by constructor <;> simp [idleOperands, causeFits]
  buffers := by
    refine ⟨⟨rfl, rfl⟩, ⟨hw, hb⟩, ⟨rfl, rfl⟩, ⟨rfl, rfl⟩, ?_, ?_⟩ <;> simp [idleOperands]
  command := by constructor <;> simp [idleOperands]
  hidden := by constructor <;> simp [idleOperands, nothingStaged, outputsZero]

theorem inv_idleWith (c : Config) (l : List Turn) : Inv c (idleWith l) where
  flags := by constructor <;> simp [idleWith, causeFits]
  buffers := by refine ⟨⟨rfl, rfl⟩, ⟨rfl, rfl⟩, ⟨rfl, rfl⟩, ⟨rfl, rfl⟩, ?_, ?_⟩ <;> simp [idleWith]
  command := by constructor <;> simp [idleWith]
  hidden := by constructor <;> simp [idleWith, nothingStaged, outputsZero]

theorem inv_busyWith (c : Config) (l : List Turn) : Inv c (busyWith l) where
  flags := by constructor <;> simp [busyWith, causeFits]
  buffers := by refine ⟨⟨rfl, rfl⟩, ⟨rfl, rfl⟩, ⟨rfl, rfl⟩, ⟨rfl, rfl⟩, ?_, ?_⟩ <;> simp [busyWith]
  command := by constructor <;> simp [busyWith, reaches]
  hidden := by constructor <;> simp [busyWith, nothingStaged, outputsZero]

/-- A host access at an offset that names something answers a next state. -/
theorem read_answers {off : Nat} {tgt : Target} {s : State} (h : s.script = [.read (Config.hw.base + off)])
    (hlt : off < 2 ^ 23) (ht : targetOf Config.hw off = some tgt) : ∃ t, step s = .next t := ⟨_, step_read h hlt ht⟩

/-- The bounds of the hardware's capacities. -/
theorem hw_bounds : (Config.hw.aadCap % 16 = 0 ∧ 16 ≤ Config.hw.aadCap ∧ Config.hw.aadCap ≤ 2 ^ 20)
    ∧ (Config.hw.dataCap % 16 = 0 ∧ 16 ≤ Config.hw.dataCap ∧ Config.hw.dataCap ≤ 2 ^ 20)
    ∧ (Config.hw.outCap % 16 = 0 ∧ 32 ≤ Config.hw.outCap ∧ Config.hw.outCap ≤ 2 ^ 22) := by
  have h := (Config.wellFormed_iff _).1 Config.hw_wellFormed
  exact ⟨h.1, h.2.1, h.2.2.1.1, le_trans (le_max_right _ _) h.2.2.1.2.1, h.2.2.1.2.2⟩

theorem test_witness_PowerOnResetLeavesResetValues : (idleWith [.powerOnReset]).script = .powerOnReset :: [] := rfl
theorem test_witness_SoftResetAbortsAndClears :
    (busyWith [.write (Config.hw.base + 0x000) 0x2#32]).script = .write (Config.hw.base + 0x000) 0x2#32 :: []
      ∧ (0x2#32).getLsbD 1 = true := ⟨rfl, by decide⟩
theorem test_witness_CtrlSetsAndReadsInterruptEnable :
    ((idleWith [.write (Config.hw.base + 0x000) 0xFFFFFFFD#32]).script =
        .write (Config.hw.base + 0x000) 0xFFFFFFFD#32 :: [] ∧ (0xFFFFFFFD#32).getLsbD 1 = false)
      ∧ (idleWith [.read (Config.hw.base + 0x000)]).script = .read (Config.hw.base + 0x000) :: [] :=
  ⟨⟨rfl, by decide⟩, rfl⟩
theorem test_witness_StatusClearsAndReadsItsFields :
    (idleWith [.write (Config.hw.base + 0x008) 0x6#32]).script = .write (Config.hw.base + 0x008) 0x6#32 :: []
      ∧ (idleWith [.read (Config.hw.base + 0x008)]).script = .read (Config.hw.base + 0x008) :: [] := ⟨rfl, rfl⟩
theorem test_witness_CmdWriteWhenIdleAccepts :
    (idleWith [.write (Config.hw.base + 0x004) 0x1#32]).script = .write (Config.hw.base + 0x004) 0x1#32 :: []
      ∧ (idleWith [.write (Config.hw.base + 0x004) 0x1#32]).busy = false := ⟨rfl, rfl⟩
theorem test_witness_CmdWriteWhileBusyOnlySetsOverrun :
    (busyWith [.write (Config.hw.base + 0x004) 0x3#32]).script = .write (Config.hw.base + 0x004) 0x3#32 :: []
      ∧ (busyWith [.write (Config.hw.base + 0x004) 0x3#32]).busy = true := ⟨rfl, rfl⟩
theorem test_witness_IrqFollowsEnableAndDone_commit :
    (running .commit .pad []).phase = .commit ∧ ∃ t, exec .pad (running .commit .pad []) = .next t := ⟨rfl, _, rfl⟩
theorem test_witness_IrqFollowsEnableAndDone_writes (off : Nat) (h : off = 0x000 ∨ off = 0x004 ∨ off = 0x008) :
    ∃ t, step (idleWith [.write (Config.hw.base + off) 0x2#32]) = .next t := by
  rcases h with rfl | rfl | rfl
  · exact ⟨_, step_write rfl (by decide) (targetOf_of_lookup (r := .ctrl) _ (by decide) (by decide) (by decide))⟩
  · exact ⟨_, step_write rfl (by decide) (targetOf_of_lookup (r := .cmd) _ (by decide) (by decide) (by decide))⟩
  · exact ⟨_, step_write rfl (by decide) (targetOf_of_lookup (r := .status) _ (by decide) (by decide) (by decide))⟩
theorem test_witness_FlagsChangeOnlyByTheirRules :
    ∃ t, step (idleWith [.write (Config.hw.base + 0x004) 0x1#32]) = .next t
      ∧ statusFields t ≠ statusFields (idleWith [.write (Config.hw.base + 0x004) 0x1#32]) := by
  refine ⟨_, step_write rfl (by decide) (targetOf_of_lookup (r := .cmd) _ (by decide) (by decide) (by decide)), ?_⟩
  rw [writeTarget, writeReg, cmdWrite_idle _ (by rfl)]
  intro h
  exact Bool.noConfusion (congrArg Prod.fst h)
theorem test_witness_BusErrorExactlyOffTheMap_misaligned : (0x7FFFFF : Nat) < 2 ^ 23 ∧ 0x7FFFFF % 4 ≠ 0 := by decide
theorem test_witness_BusErrorExactlyOffTheMap_unnamed :
    ¬ implementedOffset Config.hw 0x00C ∧ ¬ implementedOffset Config.hw 0x090
      ∧ (0x200000 + Config.hw.dataCap < 2 ^ 23 ∧ ¬ implementedOffset Config.hw (0x200000 + Config.hw.dataCap)) := by
  have h := hw_bounds
  simp only [implementedOffset, operandOffset, readOnlyOffset]
  and_intros <;> omega
theorem test_witness_BusErrorExactlyOffTheMap_named :
    implementedOffset Config.hw 0x000 ∧ implementedOffset Config.hw 0x08C
      ∧ (0x400000 + (Config.hw.outCap - 4) < 2 ^ 23 ∧ implementedOffset Config.hw (0x400000 + (Config.hw.outCap - 4))) := by
  have h := hw_bounds
  simp only [implementedOffset, operandOffset, readOnlyOffset]
  and_intros <;> first | omega | norm_num
theorem test_witness_bus_access (off : Nat) (v : Word) :
    (idleWith [.read (Config.hw.base + off)]).script = .read (Config.hw.base + off) :: []
      ∧ (idleWith [.write (Config.hw.base + off) v]).script = .write (Config.hw.base + off) v :: [] := ⟨rfl, rfl⟩
theorem test_witness_AccessOutsideApertureFaults :
    Config.hw.base + 2 ^ 23 ≤ Config.hw.base + 2 ^ 23
      ∧ (idleWith [.read (Config.hw.base + 2 ^ 23)]).script = .read (Config.hw.base + 2 ^ 23) :: [] := ⟨le_rfl, rfl⟩
theorem test_witness_ReadsHaveNoSideEffect :
    (busyWith [.read (Config.hw.base + 0x008)]).script = .read (Config.hw.base + 0x008) :: []
      ∧ ∃ t, step (busyWith [.read (Config.hw.base + 0x008)]) = .next t :=
  ⟨rfl, read_answers rfl (by decide) (targetOf_of_lookup (r := .status) _ (by decide) (by decide) (by decide))⟩
theorem test_witness_ReadOnlyIgnoredWriteOnlyReadsZero :
    (readOnlyOffset Config.hw 0x020 ∧ readOnlyOffset Config.hw 0x030 ∧ readOnlyOffset Config.hw 0x08C
        ∧ readOnlyOffset Config.hw (0x400000 + (Config.hw.outCap - 4)))
      ∧ (0x05C % 4 = 0 ∧ 0x040 ≤ 0x05C ∧ 0x05C < 0x060) := by
  have h := hw_bounds
  simp only [readOnlyOffset]
  and_intros <;> first | omega | norm_num
theorem test_witness_OperandWritesIgnoredWhileBusy :
    operandOffset Config.hw 0x010 ∧ operandOffset Config.hw 0x01C ∧ operandOffset Config.hw 0x040
      ∧ operandOffset Config.hw 0x068 ∧ operandOffset Config.hw 0x070 ∧ operandOffset Config.hw 0x07C
      ∧ operandOffset Config.hw (0x100000 + (Config.hw.aadCap - 4))
      ∧ operandOffset Config.hw (0x200000 + (Config.hw.dataCap - 4)) := by
  have h := hw_bounds
  simp only [operandOffset]
  and_intros <;> first | omega | norm_num
theorem test_witness_OperandWritesIgnoredWhileBusy_state (v : Word) (off : Nat) :
    (busyWith [.write (Config.hw.base + off) v]).busy = true
      ∧ (busyWith [.write (Config.hw.base + off) v]).script = .write (Config.hw.base + off) v :: [] := ⟨rfl, rfl⟩
theorem test_witness_WindowWordsAreFourBytes :
    4 * (Config.hw.aadCap / 4 - 1) < Config.hw.aadCap ∧ 4 * (Config.hw.dataCap / 4 - 1) < Config.hw.dataCap
      ∧ 4 * (Config.hw.outCap / 4 - 1) < Config.hw.outCap := by
  have h := hw_bounds
  omega
theorem test_witness_WindowWordsAreFourBytes_state (t : Turn) :
    (idleWith [t]).busy = false ∧ (idleWith [t]).script = t :: [] := ⟨rfl, rfl⟩
theorem test_witness_LengthHalvesAreIndependent (off : Nat) (v : Word) :
    (idleWith [.write (Config.hw.base + off) v]).busy = false
      ∧ (idleWith [.write (Config.hw.base + off) v]).script = .write (Config.hw.base + off) v :: []
      ∧ Inv Config.hw (idleWith [.read (Config.hw.base + off)])
      ∧ (idleWith [.read (Config.hw.base + off)]).script = .read (Config.hw.base + off) :: [] :=
  ⟨rfl, rfl, inv_idleWith _ _, rfl⟩
theorem test_witness_KeyNonceTagWordsHoldFourBytes (t : Turn) :
    (7 < 8 ∧ 2 < 3 ∧ 3 < 4) ∧ (idleWith [t]).busy = false ∧ (idleWith [t]).script = t :: [] := ⟨by decide, rfl, rfl⟩
theorem test_witness_ReadsIndependentOfHiddenState :
    SameButHidden (busyWith [.read (Config.hw.base + 0x040)])
        { busyWith [.read (Config.hw.base + 0x040)] with key := kRfc, mackey := mkRfc, phase := .cipher }
      ∧ ∃ t, step (busyWith [.read (Config.hw.base + 0x040)]) = .next t :=
  ⟨rfl, read_answers rfl (by decide) (targetOf_of_lookup (r := .key 0) _ (by decide) (by decide) (by decide))⟩
theorem test_witness_OutputsReadZeroWhileBusy :
    Inv Config.hw (busyWith [.read (Config.hw.base + 0x08C)]) ∧ (busyWith [.read (Config.hw.base + 0x08C)]).busy = true
      ∧ (0x08C % 4 = 0 ∧ 0x080 ≤ 0x08C ∧ 0x08C < 0x090)
      ∧ ((0x400000 + (Config.hw.outCap - 4)) % 4 = 0
        ∧ 0x400000 + (Config.hw.outCap - 4) < 0x400000 + Config.hw.outCap) := by
  have h := hw_bounds
  exact ⟨inv_busyWith _ _, rfl, by decide, by omega⟩
theorem test_witness_StepRunsTheLatchedCommand :
    (running .cipher .encrypt []).phase ≠ .idle ∧ decode (running .cipher .encrypt []).cmdw = .command .encrypt
      ∧ (running .cipher .encrypt []).script = []
      ∧ ({ running .cipher .encrypt [] with script := [.sequencer] } : State).script = .sequencer :: [] := by decide
theorem test_witness_CommandStartsByItsWord :
    (idleWith [.write (Config.hw.base + 0x004) (encode .pad)]).phase = .idle
      ∧ (idleWith [.write (Config.hw.base + 0x004) (encode .pad)]).busy = false
      ∧ (idleWith [.write (Config.hw.base + 0x004) (encode .pad)]).script =
        .write (Config.hw.base + 0x004) (encode .pad) :: [] := ⟨rfl, rfl, rfl⟩
theorem test_witness_EachCommandAcceptsWhenIdle : State.reset.phase = .idle := rfl
theorem test_witness_CheckPhaseInItsOrder :
    (running .check .pad []).phase = .check ∧ (running .check .pad []).script = [] := ⟨rfl, rfl⟩
theorem test_witness_phases (p : Phase) (i : Instr) (d : List Byte) : (running p i d).phase = p := rfl
theorem test_witness_CipherPhaseTransformsOrFails :
    64 * (cfgL zeroDraws).scMaxCounter < (running .cipher .encrypt (zeros 65)).dataLen.toNat
      ∧ (running .cipher .encrypt (zeros 64)).dataLen.toNat ≤ 64 * (cfgL zeroDraws).scMaxCounter := by decide +kernel
theorem test_witness_CommitPhasePublishesAndClears :
    ((running .commit .encrypt []).phase = .commit ∧ (running .commit .encrypt []).script = [])
      ∧ (running .commit .encrypt []).result.1 = .ok
      ∧ ({ running .commit .encrypt [] with result := (.lengthError, .aadTooLong) } : State).result.1 ≠ .ok := by decide
theorem test_witness_UnreachedPhasesFault : (running .padout .encrypt []).phase ≠ .idle := by decide
theorem test_witness_CommandsKeepTheirOperands : ∃ t, exec .encrypt (running .check .encrypt []) = .next t := ⟨_, rfl⟩
theorem test_witness_OutputsChangeOnlyAtCommit :
    (∃ t, exec .encrypt (running .mac .encrypt []) = .next t) ∧ (running .mac .encrypt []).phase ≠ .idle
      ∧ (running .mac .encrypt []).phase ≠ .commit := ⟨⟨_, rfl⟩, by decide, by decide⟩
/-- Lengths at the capacities and the data at the stream cipher's limit (64 bytes under CFG-L). -/
theorem test_witness_EncryptCommitsCiphertextAndTag :
    (cfgL zeroDraws).wellFormed = true ∧ Inv (cfgL zeroDraws) (idleOperands 1024#64 64#64 0#128 [])
      ∧ (1024#64).toNat ≤ (cfgL zeroDraws).aadCap ∧ (64#64).toNat ≤ (cfgL zeroDraws).dataCap
      ∧ (64#64).toNat ≤ 64 * (cfgL zeroDraws).scMaxCounter :=
  ⟨by decide +kernel, inv_idleOperands _ _ _ rfl rfl, by decide, by decide, by decide⟩
/-- The tag the authenticator gives over the operands of `idleOperands a d`. -/
def tagOver (c : Config) (a d : DWord) : Tag :=
  c.maCompute (padMessage ((List.range a.toNat).map (aadByte c State.reset)) ((List.range d.toNat).map (inByte c State.reset)))
    (macKeyOf c State.reset)
theorem test_witness_DecryptCommitsPlaintext :
    (cfgL zeroDraws).wellFormed = true
      ∧ Inv (cfgL zeroDraws) (idleOperands 16#64 64#64 (tagOver (cfgL zeroDraws) 16#64 64#64) [])
      ∧ (idleOperands 16#64 64#64 (tagOver (cfgL zeroDraws) 16#64 64#64) []).phase = .idle
      ∧ (16#64).toNat ≤ (cfgL zeroDraws).aadCap ∧ (64#64).toNat ≤ (cfgL zeroDraws).dataCap
      ∧ (64#64).toNat ≤ 64 * (cfgL zeroDraws).scMaxCounter :=
  ⟨by decide +kernel, inv_idleOperands _ _ _ rfl rfl, rfl, by decide, by decide, by decide⟩
theorem test_witness_DecryptCommitsPlaintext_tag (c : Config) (a d : DWord) :
    (idleOperands a d (tagOver c a d) []).tagIn =
      c.maCompute (padMessage
        ((List.range (idleOperands a d (tagOver c a d) []).aadLen.toNat).map (aadByte c (idleOperands a d (tagOver c a d) [])))
        ((List.range (idleOperands a d (tagOver c a d) []).dataLen.toNat).map
          (inByte c (idleOperands a d (tagOver c a d) [])))) (macKeyOf c (idleOperands a d (tagOver c a d) [])) := rfl
theorem test_witness_DecryptWithWrongTagReleasesNothing :
    (cfgE zeroDraws).wellFormed = true
      ∧ Inv (cfgE zeroDraws) (idleOperands 0#64 0#64 (tagOver (cfgE zeroDraws) 0#64 0#64 ^^^ 1#128) [])
      ∧ (0#64).toNat ≤ (cfgE zeroDraws).aadCap ∧ (0#64).toNat ≤ (cfgE zeroDraws).dataCap
      ∧ (idleOperands 0#64 0#64 (tagOver (cfgE zeroDraws) 0#64 0#64 ^^^ 1#128) []).tagIn ≠
        tagOver (cfgE zeroDraws) 0#64 0#64 :=
  ⟨by decide +kernel, inv_idleOperands _ _ _ rfl rfl, by decide, by decide, by decide +kernel⟩
theorem test_witness_StreamLimitFailsWithoutOutput :
    (cfgL zeroDraws).wellFormed = true
      ∧ Inv (cfgL zeroDraws) (idleOperands 12#64 65#64 (tagOver (cfgL zeroDraws) 12#64 65#64) [])
      ∧ (12#64).toNat ≤ (cfgL zeroDraws).aadCap ∧ (65#64).toNat ≤ (cfgL zeroDraws).dataCap
      ∧ 64 * (cfgL zeroDraws).scMaxCounter < (65#64).toNat :=
  ⟨by decide +kernel, inv_idleOperands _ _ _ rfl rfl, by decide, by decide, by decide⟩
/-- V-PD11: the largest PAD under CFG-E. -/
theorem test_witness_PadCommitsThePaddedMessage :
    (cfgE zeroDraws).wellFormed = true ∧ Inv (cfgE zeroDraws) (idleOperands 1024#64 4096#64 0#128 [])
      ∧ ru16 (1024#64).toNat + ru16 (4096#64).toNat + 16 ≤ (cfgE zeroDraws).outCap :=
  ⟨by decide +kernel, inv_idleOperands _ _ _ rfl rfl, by decide⟩
theorem test_witness_DeriveKeyCommitsTheMacKey :
    (cfgE zeroDraws).wellFormed = true ∧ Inv (cfgE zeroDraws) (idleOperands (BitVec.allOnes 64) (BitVec.allOnes 64) 0#128 [])
      ∧ (idleOperands (BitVec.allOnes 64) (BitVec.allOnes 64) 0#128 []).phase = .idle :=
  ⟨by decide +kernel, inv_idleOperands _ _ _ rfl rfl, rfl⟩
/-- V-PD9, V-PD10, V-PD13: each length one beyond. -/
theorem test_witness_LengthErrorsCommitInOrder :
    ((cfgS zeroDraws).wellFormed = true ∧ ∀ a d, Inv (cfgS zeroDraws) (idleOperands a d 0#128 []))
      ∧ (cfgS zeroDraws).aadCap < (17#64).toNat ∧ (cfgS zeroDraws).dataCap < (17#64).toNat
      ∧ (cfgS zeroDraws).outCap < ru16 (1#64).toNat + ru16 (1#64).toNat + 16 :=
  ⟨⟨by decide +kernel, fun _ _ => inv_idleOperands _ _ _ rfl rfl⟩, by decide, by decide, by decide⟩
theorem test_witness_IllegalWordsCommitIllegalCommand :
    ((cfgE zeroDraws).wellFormed = true ∧ Inv (cfgE zeroDraws) (idleWith []) ∧ (idleWith []).phase = .idle)
      ∧ (0x10#32).toNat / 16 ≠ 0 ∧ (0x0#32).toNat % 16 = 0 ∧ 5 ≤ (0x5#32).toNat % 16 ∧ 5 ≤ (0xF#32).toNat % 16 :=
  ⟨⟨by decide +kernel, inv_idleWith _ _, rfl⟩, by decide⟩
/-- An illegal word at its commit. -/
def failedWord : State :=
  { accept 0x10#32 State.reset with phase := .commit, result := (.illegalCommand, .reservedBits) }
theorem test_witness_FailedCommitLeavesZeroOutputs :
    Inv Config.hw failedWord ∧ failedWord.phase = .commit ∧ failedWord.result.1 ≠ .ok ∧ failedWord.script = [] := by
  refine ⟨⟨?_, ?_, ?_, ?_⟩, rfl, by decide, rfl⟩
  · constructor <;> simp [failedWord, causeFits]
  · refine ⟨⟨rfl, rfl⟩, ⟨rfl, rfl⟩, ⟨rfl, rfl⟩, ⟨rfl, rfl⟩, ?_, ?_⟩ <;> simp [failedWord]
  · constructor <;> simp [failedWord, reaches]
  · constructor <;> simp [failedWord, nothingStaged, outputsZero]
/-- What ENCRYPT commits on one zero byte under the all-zero key, and that ciphertext and tag given back. -/
def sealedByte : State := after (runOn (cfgE zeroDraws) 6 (withCmdWrite (cfgE zeroDraws) 0x1#32 (idleOperands 0#64 1#64 0#128 [])))
def openedByte : State := idleOperands 0#64 1#64 sealedByte.tagOut sealedByte.outMem
theorem test_witness_DecryptUndoesEncrypt :
    Inv (cfgE zeroDraws) (idleOperands 0#64 1#64 0#128 [])
      ∧ runOn (cfgE zeroDraws) 6 (withCmdWrite (cfgE zeroDraws) 0x1#32 (idleOperands 0#64 1#64 0#128 [])) =
        .next sealedByte
      ∧ sealedByte.phase = .idle ∧ sealedByte.err = .ok ∧ Inv (cfgE zeroDraws) openedByte
      ∧ openedByte.tagIn = sealedByte.tagOut
      ∧ (∀ a, a < 1 → inByte (cfgE zeroDraws) openedByte a = outByte sealedByte a) ∧ outByte sealedByte 0 = 0x9f#8 := by
  refine ⟨inv_idleOperands _ _ _ rfl rfl, eq_next_after (by decide +kernel), by decide +kernel, by decide +kernel, ?_, rfl,
    fun a _ => rfl, by decide +kernel⟩
  refine inv_idleOperands _ _ _ ?_ ?_
  · show Memory.wf (fun _ => 0#8) sealedByte.outMem = true
    decide +kernel
  · decide +kernel
theorem test_witness_OutputsDependOnOperandsOnly :
    (cfgE zeroDraws).wellFormed = true ∧ Inv (cfgE zeroDraws) (idleWith []) ∧ Inv (cfgE zeroDraws) (idleWith [.sequencer])
      ∧ (idleWith []).phase = .idle ∧ (idleWith [.sequencer]).phase = .idle
      ∧ ∀ w, SameOperands (cfgE zeroDraws) (decode w) (idleWith []) (idleWith [.sequencer]) := by
  refine ⟨by decide +kernel, inv_idleWith _ _, inv_idleWith _ _, rfl, rfl, fun w => ?_⟩
  rcases decode w with (_ | _ | _ | _) | _
  · exact ⟨rfl, rfl, rfl, rfl, rfl, rfl⟩
  · exact ⟨rfl, rfl, rfl, rfl, rfl, rfl, rfl⟩
  · exact ⟨rfl, rfl, rfl, rfl⟩
  · exact ⟨rfl, rfl⟩
  · exact trivial
/-- A PAD does not read the key: two blocks with different keys agree on its operands. -/
theorem test_witness_OutputsDependOnOperandsOnly_pad :
    SameOperands (cfgE zeroDraws) (decode (encode .pad)) (idleWith []) { idleWith [] with key := kRfc, tagIn := tRfc } :=
  ⟨rfl, rfl, rfl, rfl⟩
theorem test_witness_StepKeepsInvariant : Inv Config.hw (busyWith []) ∧ ∃ t, step (busyWith []) = .next t :=
  ⟨inv_busyWith _ _, _, rfl⟩
/-- A DECRYPT in CIPHER, its tags equal. -/
theorem test_witness_StepKeepsVerifyFirst :
    VerifyFirst { running .cipher .decrypt [] with expTag := tRfc, tagIn := tRfc }
      ∧ ∃ t, step { running .cipher .decrypt [] with expTag := tRfc, tagIn := tRfc } = .next t := by
  refine ⟨⟨?_, ?_, ?_, ?_⟩, _, rfl⟩
  · intro _ h; simp [running] at h
  · exact fun _ _ => ⟨by decide +kernel, by simp only [noApplySinceAccept]; decide⟩
  · intro h; simp [running] at h
  · intro h; simp [running] at h
/-- ... and one that meets the invariant too: a DECRYPT just accepted. -/
def acceptedDecrypt : State := accept (encode .decrypt) State.reset
theorem test_witness_StepKeepsVerifyFirst_invariant :
    Inv Config.hw acceptedDecrypt ∧ VerifyFirst acceptedDecrypt ∧ ∃ t, step acceptedDecrypt = .next t := by
  refine ⟨⟨?_, ?_, ?_, ?_⟩, ⟨?_, ?_, ?_, ?_⟩, _, rfl⟩
  · constructor <;> simp [acceptedDecrypt, causeFits]
  · refine ⟨⟨rfl, rfl⟩, ⟨rfl, rfl⟩, ⟨rfl, rfl⟩, ⟨rfl, rfl⟩, ?_, ?_⟩ <;> simp [acceptedDecrypt]
  · constructor <;> simp [acceptedDecrypt, reaches]
  · constructor <;> simp [acceptedDecrypt, nothingStaged, outputsZero]
  · exact fun _ _ => by simp only [noApplySinceAccept]; decide
  · intro _ h; simp [acceptedDecrypt] at h
  · intro h; simp [acceptedDecrypt] at h
  · intro h; simp [acceptedDecrypt] at h
theorem test_witness_SequencerAlwaysSteps :
    Inv Config.hw (busyWith [.sequencer]) ∧ (busyWith [.sequencer]).script = .sequencer :: []
      ∧ Inv Config.hw (busyWith []) ∧ (busyWith []).script = [] := ⟨inv_busyWith _ _, rfl, inv_busyWith _ _, rfl⟩
theorem test_witness_EveryCommandCommitsInSixSteps :
    Inv Config.hw (busyWith []) ∧ (busyWith []).busy = true ∧ (busyWith []).script = [] := ⟨inv_busyWith _ _, rfl, rfl⟩
theorem test_witness_HostAccessKeepsRunningCommand :
    Inv Config.hw (busyWith [.write (Config.hw.base + 0x000) 0x1#32])
      ∧ isSoftReset Config.hw (Config.hw.base + 0x000) 0x1#32 = false
      ∧ (∃ t, step (busyWith [.write (Config.hw.base + 0x000) 0x1#32]) = .next t)
      ∧ ∃ t, step (busyWith [.read (Config.hw.base + 0x000)]) = .next t := by
  have ht := targetOf_of_lookup (off := 0x000) (r := .ctrl) Config.hw (by decide) (by decide) (by decide)
  refine ⟨inv_busyWith _ _, ?_, ⟨_, step_write rfl (by decide) ht⟩, read_answers rfl (by decide) ht⟩
  unfold isSoftReset
  rw [show (0x1#32).getLsbD 1 = false by decide, Bool.and_false]
theorem test_witness_CommittedResultStays :
    Inv Config.hw (idleWith [.read (Config.hw.base + 0x020)]) ∧ (idleWith [.read (Config.hw.base + 0x020)]).busy = false
      ∧ ∃ t, step (idleWith [.read (Config.hw.base + 0x020)]) = .next t ∧ t.busy = false :=
  ⟨inv_idleWith _ _, rfl, _,
    step_read rfl (by decide) (targetOf_of_lookup (r := .outLenLo) _ (by decide) (by decide) (by decide)), rfl⟩
theorem test_witness_CommandIgnoresHostFields :
    SameCommand (busyWith []) { busyWith [.sequencer] with overrun := true, irqEn := true }
      ∧ ∃ t, exec .encrypt (busyWith []) = .next t := ⟨rfl, _, rfl⟩
/-- V-T3 and V-T4: two different mismatches. -/
theorem test_witness_CompareTakesOneStepForAllTags :
    (running .compare .decrypt []).phase = .compare
      ∧ ctEq16 (tRfc ^^^ 1#128) tRfc = ctEq16 tRfc (tRfc ^^^ (0x80#128 <<< 120)) := ⟨rfl, by decide +kernel⟩
theorem test_witness_ApplyPortContract :
    (∃ r, scApply (cfgL zeroDraws) kRfc nRfc 1#64 (zeros 64) = some r)
      ∧ scApply (cfgL zeroDraws) kRfc nRfc 1#64 (zeros 65) = none := by
  refine ⟨Option.isSome_iff_exists.1 (by decide +kernel), by decide +kernel⟩

end Sys2Proof.Tests
end

/-! The statements of 10_state.md: CTRL, CMD, STATUS, the interrupt output, the key, nonce and tag registers, COMMIT.
First what they share: the register map read in both directions, a register access as one step, and which operations
leave the flags and codes of STATUS alone. -/

namespace Sys2Proof.Machine

/-! ### The register map -/

theorem lookup_ctrl : registerMap.lookup 0x000 = some .ctrl := by decide

theorem lookup_cmd : registerMap.lookup 0x004 = some .cmd := by decide

theorem lookup_status : registerMap.lookup 0x008 = some .status := by decide

theorem lookup_key : ∀ i : Fin 8, registerMap.lookup (0x040 + 4 * i.val) = some (.key i) := by decide

theorem lookup_nonce : ∀ i : Fin 3, registerMap.lookup (0x060 + 4 * i.val) = some (.nonce i) := by decide

theorem lookup_tagIn : ∀ i : Fin 4, registerMap.lookup (0x070 + 4 * i.val) = some (.tagIn i) := by decide

theorem lookup_tagOut : ∀ i : Fin 4, registerMap.lookup (0x080 + 4 * i.val) = some (.tagOut i) := by decide

/-- A register found at an offset is listed there. -/
theorem mem_registerMap_of_lookup {off : Nat} {r : Reg} (h : registerMap.lookup off = some r) :
    (off, r) ∈ registerMap := by
  obtain ⟨l₁, l₂, hl, -⟩ := List.lookup_eq_some_iff.1 h
  simp [hl]

/-- Every register is at a word offset below 0x090 (10_state.md R33). -/
theorem registerMap_aligned_below : ∀ p ∈ registerMap, p.1 % 4 = 0 ∧ p.1 < 0x090 := by decide

/-- CTRL, CMD and STATUS are at one offset each. -/
theorem registerMap_control_offsets : ∀ p ∈ registerMap,
    (p.2 = .ctrl → p.1 = 0x000) ∧ (p.2 = .cmd → p.1 = 0x004) ∧ (p.2 = .status → p.1 = 0x008) := by decide

theorem targetOf_eq_reg {c : Config} {off : Nat} {r : Reg} (hl : registerMap.lookup off = some r) :
    targetOf c off = some (.reg r) := by
  obtain ⟨h4, hlt⟩ := registerMap_aligned_below _ (mem_registerMap_of_lookup hl)
  exact targetOf_of_lookup c hl h4 (by omega)

/-- An offset names a register only by the register map. -/
theorem lookup_of_targetOf_eq_reg {c : Config} {off : Nat} {r : Reg} (h : targetOf c off = some (.reg r)) :
    registerMap.lookup off = some r := by
  unfold targetOf at h
  split_ifs at h <;> simp_all

/-! ### A register access as one step -/

theorem readReg_setScript (c : Config) (l : List Turn) (s : State) (r : Reg) :
    readReg c (setScript l s) r = readReg c s r := by
  cases r <;> rfl

/-- A host write to a register. -/
theorem step_writeReg {s : State} {off : Nat} {v : Word} {rest : List Turn} {r : Reg}
    (h : s.script = .write (Config.hw.base + off) v :: rest) (hl : registerMap.lookup off = some r) :
    step s = .next (respond .written (writeReg v r (setScript rest s))) := by
  obtain ⟨-, hlt⟩ := registerMap_aligned_below _ (mem_registerMap_of_lookup hl)
  exact step_write h (by omega) (targetOf_eq_reg hl)

/-- A host read of a register. -/
theorem step_readReg {s : State} {off : Nat} {rest : List Turn} {r : Reg}
    (h : s.script = .read (Config.hw.base + off) :: rest) (hl : registerMap.lookup off = some r) :
    step s = .next { s with script := rest, response := .data (readReg Config.hw s r) } := by
  obtain ⟨-, hlt⟩ := registerMap_aligned_below _ (mem_registerMap_of_lookup hl)
  rw [step_read h (by omega) (targetOf_eq_reg hl), readTarget, readReg_setScript]
  rfl

/-! ### CTRL and CMD -/

theorem bitWord_eq_ite (b : Bool) : bitWord b = if b = true then 0x1#32 else 0x0#32 := by
  cases b <;> decide

/-- Settles O4: bit 1 clear selects the branch of a CTRL write that stores IRQ_EN alone. -/
theorem ctrlSetsAndReadsInterruptEnable : Obligations.CtrlSetsAndReadsInterruptEnable := by
  intro s v rest
  refine ⟨fun h hv => ?_, fun h => ?_⟩
  · rw [step_writeReg h lookup_ctrl, writeReg, ctrlWrite_keep _ hv]
    rfl
  · rw [step_readReg h lookup_ctrl, readReg, ctrlWord, bitWord_eq_ite]

/-- Settles O6: on an idle block a CMD write is `accept`. -/
theorem cmdWriteWhenIdleAccepts : Obligations.CmdWriteWhenIdleAccepts := by
  intro s w rest h hb
  refine ⟨_, step_writeReg h lookup_cmd, ?_⟩
  rw [writeReg, cmdWrite_idle w (s := setScript rest s) hb]
  exact ⟨rfl, fun _ => rfl⟩

/-- Settles O7: on a busy block a CMD write is the overrun. -/
theorem cmdWriteWhileBusyOnlySetsOverrun : Obligations.CmdWriteWhileBusyOnlySetsOverrun := by
  intro s w rest h hb
  rw [step_writeReg h lookup_cmd, writeReg, cmdWrite_busy w (s := setScript rest s) hb]
  rfl

/-! ### STATUS -/

/-- A write-one-to-clear bit `b` under the written bit `w`. -/
theorem and_not_eq_ite (b w : Bool) : (b && !w) = if w = true then false else b := by
  cases w <;> simp

/-- The fields of STATUS, from the table of its bits. -/
theorem statusWord_fields (s : State) : (statusWord s).extractLsb' 4 4 = errCode s.err
    ∧ (statusWord s).extractLsb' 8 4 = causeCode s.cause ∧ (statusWord s).extractLsb' 12 4 = s.lastOpc
    ∧ (statusWord s).extractLsb' 16 16 = 0#16 := by
  refine ⟨BitVec.eq_of_getLsbD_eq fun j hj => ?_, BitVec.eq_of_getLsbD_eq fun j hj => ?_,
    BitVec.eq_of_getLsbD_eq fun j hj => ?_, BitVec.eq_of_getLsbD_eq fun j hj => ?_⟩
  all_goals
    rw [BitVec.getLsbD_extractLsb', getLsbD_statusWord s _ (by omega), decide_eq_true hj, Bool.true_and]
    simp (disch := omega) only [if_pos, if_neg, Nat.add_sub_cancel_left, BitVec.getLsbD_zero]

/-- The flags of STATUS, and its bit 3. -/
theorem statusWord_flags (s : State) : (statusWord s).getLsbD 0 = s.busy ∧ (statusWord s).getLsbD 1 = s.done
    ∧ (statusWord s).getLsbD 2 = s.overrun ∧ (statusWord s).getLsbD 3 = false :=
  ⟨getLsbD_statusWord s 0 (by decide), getLsbD_statusWord s 1 (by decide), getLsbD_statusWord s 2 (by decide),
    getLsbD_statusWord s 3 (by decide)⟩

/-- Settles O5: the write by the two write-one-to-clear bits, the read by the table of STATUS's bits. -/
theorem statusClearsAndReadsItsFields : Obligations.StatusClearsAndReadsItsFields := by
  intro s v rest
  refine ⟨fun h => ?_, fun h => ?_⟩
  · rw [step_writeReg h lookup_status, ← and_not_eq_ite, ← and_not_eq_ite]
    rfl
  · obtain ⟨hbusy, hdone, hoverrun, hzero⟩ := statusWord_flags s
    exact ⟨statusWord s, step_readReg h lookup_status, hbusy, hdone, hoverrun, hzero, statusWord_fields s⟩

/-! ### The key, nonce and tag registers -/

theorem step_write_key {s : State} {v : Word} {rest : List Turn} (i : Fin 8)
    (h : s.script = .write (Config.hw.base + (0x040 + 4 * i.val)) v :: rest) (hb : s.busy = false) :
    step s = .next { s with script := rest, response := .written, key := setWordAt s.key i.val v } := by
  rw [step_writeReg h (lookup_key i), writeReg, unlessBusy_idle (s := setScript rest s) hb]
  rfl

theorem step_write_nonce {s : State} {v : Word} {rest : List Turn} (i : Fin 3)
    (h : s.script = .write (Config.hw.base + (0x060 + 4 * i.val)) v :: rest) (hb : s.busy = false) :
    step s = .next { s with script := rest, response := .written, nonce := setWordAt s.nonce i.val v } := by
  rw [step_writeReg h (lookup_nonce i), writeReg, unlessBusy_idle (s := setScript rest s) hb]
  rfl

theorem step_write_tagIn {s : State} {v : Word} {rest : List Turn} (i : Fin 4)
    (h : s.script = .write (Config.hw.base + (0x070 + 4 * i.val)) v :: rest) (hb : s.busy = false) :
    step s = .next { s with script := rest, response := .written, tagIn := setWordAt s.tagIn i.val v } := by
  rw [step_writeReg h (lookup_tagIn i), writeReg, unlessBusy_idle (s := setScript rest s) hb]
  rfl

/-- Settles O17: a write replaces word `i` of its group, and the bytes of a replaced word are the law
`byteAt_setWordAt`. -/
theorem keyNonceTagWordsHoldFourBytes : Obligations.KeyNonceTagWordsHoldFourBytes := by
  intro s i v rest
  refine ⟨fun hb hi h => ?_, fun hi h => ?_, fun hb hi h => ?_, fun hi h => ?_, fun hb hi h => ?_, fun hi h => ?_,
    fun hi h => ?_⟩
  · exact ⟨_, step_write_key ⟨i, hi⟩ h hb, rfl, fun k hk => byteAt_setWordAt s.key i v k (by omega)⟩
  · exact step_readReg h (lookup_key ⟨i, hi⟩)
  · exact ⟨_, step_write_nonce ⟨i, hi⟩ h hb, rfl, fun k hk => byteAt_setWordAt s.nonce i v k (by omega)⟩
  · exact step_readReg h (lookup_nonce ⟨i, hi⟩)
  · exact ⟨_, step_write_tagIn ⟨i, hi⟩ h hb, rfl, fun k hk => byteAt_setWordAt s.tagIn i v k (by omega)⟩
  · exact step_readReg h (lookup_tagIn ⟨i, hi⟩)
  · exact step_readReg h (lookup_tagOut ⟨i, hi⟩)

/-! ### COMMIT -/

/-- Every command's step in COMMIT is the commit. -/
theorem exec_commit {s : State} (i : Instr) (h : s.phase = .commit) : exec i s = .next (commit s) := by
  cases i with
  | encrypt => simp only [exec, execEncrypt, encryptOn, h]
  | decrypt => simp only [exec, execDecrypt, decryptOn, h]
  | pad => simp only [exec, execPad, padOn, h]
  | deriveKey => simp only [exec, execDeriveKey, deriveKeyOn, h]

theorem illegalStep_commit {s : State} (why : Illegal) (h : s.phase = .commit) :
    illegalStep why s = .next (commit s) := by
  simp only [illegalStep, h]

/-- The sequencer's turn in COMMIT, whatever the latched word. -/
theorem sequencerTurn_commit {s : State} (h : s.phase = .commit) : sequencerTurn exec s = .next (commit s) := by
  have hp : s.phase ≠ .idle := by simp [h]
  cases hd : decode s.cmdw with
  | command i => rw [sequencerTurn_command hp hd, exec_commit i h]
  | illegal why => rw [sequencerTurn_illegal hp hd, illegalStep_commit why h]

/-- The bytes of OUT_MEM once the stage is published. -/
theorem outByte_publish (s : State) (a : Nat) :
    outByte (publish s) a = if a < s.stageLen then stageByte s a else outByte s a := by
  rw [outByte, publish_outMem, read_writeBytes_zero]
  by_cases h : a < s.stageLen
  · simp [stageBytes, Memory.readBytes, h, stageByte]
  · simp [stageBytes, h, outByte]

/-- A commit but for the three outputs it may publish. -/
theorem commit_frame (s : State) : commit s = { s with
    outMem := (commit s).outMem, outLen := (commit s).outLen, tagOut := (commit s).tagOut
    err := s.result.1, cause := s.result.2, busy := false, done := true
    mackey := 0#256, expTag := 0#128, stage := [], stageLen := 0, stageTag := 0#128
    cmdw := 0#32, result := (.ok, .none)
    log := s.log ++ [.commit s.result.1 s.result.2], phase := .idle } := by
  rcases commit_cases s with ⟨hok, hc⟩ | ⟨-, hc⟩
  · rw [hc, hok]
    rfl
  · rw [hc]
    rfl

@[simp] theorem commit_stage (s : State) : (commit s).stage = [] := by rw [commit_frame]

/-- Settles O33: on success `publish` gives the outputs, on a failure nothing does; the rest is the same. -/
theorem commitPhasePublishesAndClears : Obligations.CommitPhasePublishesAndClears := by
  intro s hp hs
  refine ⟨commit s, ?_, fun i => exec_commit i hp, commit_frame s, fun a => ?_, fun hok => ?_, fun hfail => ?_⟩
  · rw [step, stepWith_nil hs, sequencerTurn_commit hp]
  · rw [stageByte, commit_stage]
    rfl
  · rw [commit_ok hok]
    exact ⟨rfl, rfl, outByte_publish s⟩
  · rw [commit_failed hfail]
    exact ⟨rfl, rfl, rfl⟩

/-! ### The interrupt output -/

theorem irq_commit (s : State) : irq (commit s) = s.irqEn := by
  rw [commit_frame]
  simp [irq]

/-- Settles O8: the level after each event, from what the event does to IRQ_EN and DONE. -/
theorem irqFollowsEnableAndDone : Obligations.IrqFollowsEnableAndDone := by
  refine ⟨fun _ => rfl, fun i s t hp h => ?_, fun s t v rest h => ?_⟩
  · rw [exec_commit i hp, Host.Outcome.next.injEq] at h
    rw [← h, irq_commit]
  · refine ⟨fun hs hv => ?_, fun hs hv => ?_, fun hs hb => ?_, fun hs hv => ?_⟩
    · rw [step_writeReg hs lookup_ctrl, writeReg, ctrlWrite_keep _ hv, Host.Outcome.next.injEq] at h
      simp [← h, irq]
    · rw [step_writeReg hs lookup_ctrl, writeReg, ctrlWrite_reset _ hv, Host.Outcome.next.injEq] at h
      simp [← h, irq]
    · rw [step_writeReg hs lookup_cmd, writeReg, cmdWrite_idle v (s := setScript rest s) hb,
        Host.Outcome.next.injEq] at h
      simp [← h, irq]
    · rw [step_writeReg hs lookup_status, writeReg, Host.Outcome.next.injEq] at h
      simp [← h, irq, hv, -BitVec.getLsbD_eq_getElem]

/-! ### Which operations leave the flags and codes alone -/

@[simp] theorem statusFields_logEvent (e : Event) (s : State) : statusFields (logEvent e s) = statusFields s := rfl

@[simp] theorem statusFields_goTo (p : Phase) (s : State) : statusFields (goTo p s) = statusFields s := rfl

@[simp] theorem statusFields_respond (r : Response) (s : State) : statusFields (respond r s) = statusFields s := rfl

@[simp] theorem statusFields_setScript (l : List Turn) (s : State) :
    statusFields (setScript l s) = statusFields s := rfl

@[simp] theorem statusFields_setStageTag (t : Tag) (s : State) : statusFields (setStageTag t s) = statusFields s := rfl

@[simp] theorem statusFields_setExpTag (t : Tag) (s : State) : statusFields (setExpTag t s) = statusFields s := rfl

@[simp] theorem statusFields_fail (e : Err) (c : Cause) (s : State) : statusFields (fail e c s) = statusFields s := rfl

@[simp] theorem statusFields_putStage (bs : List Byte) (s : State) :
    statusFields (putStage bs s) = statusFields s := rfl

@[simp] theorem statusFields_keygen (c : Config) (s : State) : statusFields (keygen c s) = statusFields s := rfl

@[simp] theorem statusFields_deriveKeyStaged (s : State) : statusFields (deriveKeyStaged s) = statusFields s := by
  simp [deriveKeyStaged]

@[simp] theorem statusFields_encryptMac (c : Config) (s : State) :
    statusFields (encryptMac c s) = statusFields s := by
  simp [encryptMac, macLogged]

@[simp] theorem statusFields_decryptMac (c : Config) (s : State) :
    statusFields (decryptMac c s) = statusFields s := by
  simp [decryptMac, macLogged]

@[simp] theorem statusFields_decryptStaged (s : State) : statusFields (decryptStaged s) = statusFields s := by
  simp [decryptStaged]

@[simp] theorem statusFields_padOut (c : Config) (s : State) : statusFields (padOut c s) = statusFields s := by
  simp [padOut]

section
variable {c : Config} {s t : State}

theorem statusFields_checkLengths {ok : State → State} (hok : statusFields (ok s) = statusFields s) :
    statusFields (checkLengths c ok s) = statusFields s := by
  rcases checkLengths_cases c ok s with ⟨-, h⟩ | ⟨-, -, h⟩ | ⟨-, -, h⟩ <;> simp [h, hok]

@[simp] theorem statusFields_checkPadLength : statusFields (checkPadLength c s) = statusFields s := by
  rcases checkPadLength_cases c s with ⟨-, h⟩ | ⟨-, h⟩ <;> simp [h]

@[simp] theorem statusFields_compareTags : statusFields (compareTags s) = statusFields s := by
  rcases compareTags_cases s with ⟨-, h⟩ | ⟨-, h⟩ <;> simp [h]

theorem statusFields_cipher {e : Err} {next : State → State} (hn : ∀ u, statusFields (next u) = statusFields u) :
    statusFields (cipher c e next s) = statusFields s := by
  rcases cipher_cases c e next s with ⟨-, h⟩ | ⟨r, -, h⟩ <;> simp [h, hn]

/-- Between accept and commit no command touches the flags or codes. -/
theorem statusFields_execOn {i : Instr} (h : execOn c i s = .next t) (hi : s.phase ≠ .idle)
    (hc : s.phase ≠ .commit) : statusFields t = statusFields s := by
  rcases execOn_next h with ⟨hp, -⟩ | ⟨-, -, rfl⟩ | ⟨-, -, rfl⟩ | ⟨-, -, rfl⟩ | ⟨-, -, rfl⟩ | ⟨-, -, rfl⟩ | ⟨-, -, rfl⟩
    | ⟨-, -, rfl⟩ | ⟨-, -, rfl⟩ | ⟨-, -, rfl⟩ | ⟨-, -, rfl⟩ | ⟨-, -, rfl⟩ | ⟨-, -, rfl⟩ | ⟨hp, -⟩
  · exact absurd hp hi
  · exact statusFields_checkLengths (statusFields_goTo _ _)
  · exact statusFields_checkLengths statusFields_checkPadLength
  · simp
  · simp
  · simp
  · simp
  · exact statusFields_cipher (statusFields_goTo _)
  · exact statusFields_cipher statusFields_decryptStaged
  · simp
  · simp
  · simp
  · simp
  · exact absurd hp hc

/-- A sequencer's turn touches the flags and codes in COMMIT only. -/
theorem statusFields_sequencerTurn (h : sequencerTurn (execOn c) s = .next t) (hc : s.phase ≠ .commit) :
    statusFields t = statusFields s := by
  rcases sequencerTurn_next h with ⟨-, rfl⟩ | ⟨hi, i, -, hex⟩ | ⟨hi, why, -, hill⟩
  · rfl
  · exact statusFields_execOn hex hi hc
  · rcases illegalStep_next hill with ⟨hp, -⟩ | ⟨-, rfl⟩ | ⟨hp, -⟩
    · exact absurd hp hi
    · rfl
    · exact absurd hp hc

theorem statusFields_unlessBusy {f : State → State} (hf : statusFields (f s) = statusFields s) :
    statusFields (unlessBusy f s) = statusFields s := by
  unfold unlessBusy
  split
  · rfl
  · exact hf

/-- Of the registers only CTRL, CMD and STATUS reach the flags and codes, CTRL by its bit 1 alone. -/
theorem statusFields_writeReg {v : Word} {r : Reg} (h : statusFields (writeReg v r s) ≠ statusFields s) :
    (r = .ctrl ∧ v.getLsbD 1 = true) ∨ r = .cmd ∨ r = .status := by
  cases r with
  | ctrl =>
    refine .inl ⟨rfl, ?_⟩
    by_contra hv
    rw [writeReg, ctrlWrite_keep _ (Bool.eq_false_iff.2 hv)] at h
    exact h rfl
  | cmd => exact .inr (.inl rfl)
  | status => exact .inr (.inr rfl)
  | outLenLo | outLenHi | capAad | capData | capOut | tagOut => exact absurd rfl h
  | aadLenLo | aadLenHi | dataLenLo | dataLenHi | key | nonce | tagIn => exact absurd (statusFields_unlessBusy rfl) h

theorem statusFields_hostRead {addr : Nat} (h : hostRead c addr s = .next t) : statusFields t = statusFields s := by
  obtain ⟨-, -, -, -, rfl⟩ := hostAccess_next h
  rfl

/-- A host write that changes the flags or codes is one to CTRL with bit 1 set, to CMD or to STATUS. -/
theorem hostWrite_changes_statusFields {addr : Nat} {v : Word} (h : hostWrite c addr v s = .next t)
    (hne : statusFields t ≠ statusFields s) :
    (addr = c.base + 0x000 ∧ v.getLsbD 1 = true) ∨ addr = c.base + 0x004 ∨ addr = c.base + 0x008 := by
  obtain ⟨off, tgt, ho, ht, rfl⟩ := hostAccess_next h
  obtain ⟨rfl, -⟩ := offsetOf_eq_some.1 ho
  rw [statusFields_respond] at hne
  cases tgt with
  | aad => exact absurd (statusFields_unlessBusy rfl) hne
  | data => exact absurd (statusFields_unlessBusy rfl) hne
  | out => exact absurd rfl hne
  | reg r =>
    obtain ⟨hctrl, hcmd, hstatus⟩ :=
      registerMap_control_offsets _ (mem_registerMap_of_lookup (lookup_of_targetOf_eq_reg ht))
    rcases statusFields_writeReg hne with ⟨hr, hv⟩ | hr | hr
    · exact .inl ⟨congrArg _ (hctrl hr), hv⟩
    · exact .inr (.inl (congrArg _ (hcmd hr)))
    · exact .inr (.inr (congrArg _ (hstatus hr)))

end

/-- Settles O9, by the turn the step takes. -/
theorem flagsChangeOnlyByTheirRules : Obligations.FlagsChangeOnlyByTheirRules := by
  intro s t h hne
  rw [step_eq_stepOn, stepOn] at h
  cases hs : s.script with
  | nil =>
    rw [stepWith_nil hs] at h
    exact .inl ⟨by_contra fun hc => hne (statusFields_sequencerTurn h hc), .inl rfl⟩
  | cons turn rest =>
    rw [stepWith_cons hs] at h
    rw [← statusFields_setScript rest s] at hne
    cases turn with
    | read addr => exact absurd (statusFields_hostRead h) hne
    | write addr v =>
      rcases hostWrite_changes_statusFields h hne with ⟨rfl, hv⟩ | rfl | rfl
      · exact .inr (.inr (.inr (.inl ⟨v, rest, rfl, hv⟩)))
      · exact .inr (.inl ⟨v, rest, rfl⟩)
      · exact .inr (.inr (.inl ⟨v, rest, rfl⟩))
    | sequencer =>
      exact .inl ⟨by_contra fun hc => hne (statusFields_sequencerTurn h hc), .inr ⟨rest, rfl⟩⟩
    | powerOnReset => exact .inr (.inr (.inr (.inr ⟨rest, rfl⟩)))

end Sys2Proof.Machine

/-! The statements of 20_memory.md: reads change nothing, read-only words ignore writes and write-only words read 0, and
operands hold while BUSY = 1. First what a bus write does to each kind of word an offset can name, then what a command
leaves alone. -/

namespace Sys2Proof.Machine

/-! ### Operand words and read-only words -/

/-- A register whose writes 20_memory.md R91 ignores while BUSY = 1. -/
def Reg.isOperand : Reg → Bool
  | .aadLenLo | .aadLenHi | .dataLenLo | .dataLenHi | .key _ | .nonce _ | .tagIn _ => true
  | .ctrl | .cmd | .status | .outLenLo | .outLenHi | .capAad | .capData | .capOut | .tagOut _ => false

/-- A read-only register (20_memory.md R85). -/
def Reg.isReadOnly : Reg → Bool
  | .outLenLo | .outLenHi | .capAad | .capData | .capOut | .tagOut _ => true
  | .ctrl | .cmd | .status | .aadLenLo | .aadLenHi | .dataLenLo | .dataLenHi | .key _ | .nonce _ | .tagIn _ => false

/-- An operand register or a word of an input buffer. -/
def Target.isOperand : Target → Bool
  | .reg r => r.isOperand
  | .aad _ | .data _ => true
  | .out _ => false

/-- A read-only register or a word of OUT_MEM. -/
def Target.isReadOnly : Target → Bool
  | .reg r => r.isReadOnly
  | .out _ => true
  | .aad _ | .data _ => false

/-- The words that are neither operand nor read-only are CTRL, CMD and STATUS. -/
theorem Target.operand_or_readOnly_or_control (tgt : Target) : tgt.isOperand = true ∨ tgt.isReadOnly = true
    ∨ tgt = .reg .ctrl ∨ tgt = .reg .cmd ∨ tgt = .reg .status := by
  cases tgt with
  | reg r => cases r <;> simp [Target.isOperand, Target.isReadOnly, Reg.isOperand, Reg.isReadOnly]
  | aad | data | out => simp [Target.isOperand, Target.isReadOnly]

theorem lookup_operand_register : ∀ k < 36,
    (0x010 ≤ 4 * k ∧ 4 * k < 0x020) ∨ (0x040 ≤ 4 * k ∧ 4 * k < 0x06C)
      ∨ (0x070 ≤ 4 * k ∧ 4 * k < 0x080) →
    (registerMap.lookup (4 * k)).any Reg.isOperand = true := by decide

theorem lookup_readOnly_register : ∀ k < 36,
    (0x020 ≤ 4 * k ∧ 4 * k < 0x034) ∨ (0x080 ≤ 4 * k ∧ 4 * k < 0x090) →
    (registerMap.lookup (4 * k)).any Reg.isReadOnly = true := by decide

section
variable {c : Config} {off : Nat}

/-- Every offset that names something is in the aperture (20_memory.md R89). -/
theorem offset_lt_of_targetOf {tgt : Target} (hc : c.wellFormed = true) (h : targetOf c off = some tgt) :
    off < 2 ^ 23 := by
  have hw := (Config.wellFormed_iff c).1 hc
  unfold targetOf aadWindow dataWindow outWindow at h
  split_ifs at h
  · omega
  · omega
  · omega
  · obtain ⟨r, hl, -⟩ := Option.map_eq_some_iff.1 h
    obtain ⟨-, hlt⟩ := registerMap_aligned_below _ (mem_registerMap_of_lookup hl)
    omega

/-- An operand's offset names an operand word. -/
theorem targetOf_operandOffset (hc : c.wellFormed = true) (h : operandOffset c off) :
    ∃ tgt, targetOf c off = some tgt ∧ tgt.isOperand = true := by
  obtain ⟨h4, h⟩ := h
  obtain ⟨k, rfl⟩ := Nat.dvd_of_mod_eq_zero h4
  by_cases hreg : 4 * k < 0x090
  · obtain ⟨r, hl, hr⟩ := (Option.any_eq_true _ _).1 (lookup_operand_register k (by omega) (by omega))
    exact ⟨.reg r, targetOf_eq_reg hl, hr⟩
  · rcases h with h | h | h | h | h
    · omega
    · omega
    · omega
    · obtain ⟨i, hi⟩ : ∃ i, 4 * k = 0x100000 + 4 * i := ⟨k - 0x40000, by omega⟩
      rw [hi] at h ⊢
      exact ⟨_, targetOf_aad (by omega), rfl⟩
    · obtain ⟨i, hi⟩ : ∃ i, 4 * k = 0x200000 + 4 * i := ⟨k - 0x80000, by omega⟩
      rw [hi] at h ⊢
      exact ⟨_, targetOf_data hc (by omega), rfl⟩

/-- A read-only offset names a read-only word. -/
theorem targetOf_readOnlyOffset (hc : c.wellFormed = true) (h : readOnlyOffset c off) :
    ∃ tgt, targetOf c off = some tgt ∧ tgt.isReadOnly = true := by
  obtain ⟨h4, h⟩ := h
  obtain ⟨k, rfl⟩ := Nat.dvd_of_mod_eq_zero h4
  by_cases hreg : 4 * k < 0x090
  · obtain ⟨r, hl, hr⟩ := (Option.any_eq_true _ _).1 (lookup_readOnly_register k (by omega) (by omega))
    exact ⟨.reg r, targetOf_eq_reg hl, hr⟩
  · obtain ⟨i, hi⟩ : ∃ i, 4 * k = 0x400000 + 4 * i := ⟨k - 0x100000, by omega⟩
    rw [hi] at h ⊢
    exact ⟨_, targetOf_out hc (by omega), rfl⟩

end

/-! ### What a write does to each -/

section
variable {c : Config} {v : Word} {tgt : Target} {s : State}

theorem writeTarget_readOnly (h : tgt.isReadOnly = true) : writeTarget c v tgt s = s := by
  cases tgt with
  | reg r =>
    cases r with
    | outLenLo | outLenHi | capAad | capData | capOut | tagOut => rfl
    | ctrl | cmd | status | aadLenLo | aadLenHi | dataLenLo | dataLenHi | key | nonce | tagIn =>
      exact absurd h Bool.false_ne_true
  | aad | data => exact absurd h Bool.false_ne_true
  | out => rfl

theorem writeTarget_operand_busy (h : tgt.isOperand = true) (hb : s.busy = true) : writeTarget c v tgt s = s := by
  cases tgt with
  | reg r =>
    cases r with
    | aadLenLo | aadLenHi | dataLenLo | dataLenHi | key | nonce | tagIn =>
      rw [writeTarget, writeReg, unlessBusy_busy hb]
    | ctrl | cmd | status | outLenLo | outLenHi | capAad | capData | capOut | tagOut =>
      exact absurd h Bool.false_ne_true
  | aad | data => rw [writeTarget, unlessBusy_busy hb]
  | out => exact absurd h Bool.false_ne_true

/-- On a running block a write that is no soft reset reaches IRQ_EN, DONE and OVERRUN at most. -/
theorem writeTarget_busy_frame (hb : s.busy = true) :
    writeTarget c v tgt s = { s with
      irqEn := (writeTarget c v tgt s).irqEn, done := (writeTarget c v tgt s).done
      overrun := (writeTarget c v tgt s).overrun }
    ∨ writeTarget c v tgt s = softReset s := by
  rcases tgt.operand_or_readOnly_or_control with h | h | rfl | rfl | rfl
  · exact .inl (by rw [writeTarget_operand_busy h hb])
  · exact .inl (by rw [writeTarget_readOnly h])
  · cases hv : v.getLsbD 1 with
    | true => exact .inr (ctrlWrite_reset s hv)
    | false => exact .inl (by rw [writeTarget, writeReg, ctrlWrite_keep s hv])
  · exact .inl (by rw [writeTarget, writeReg, cmdWrite_busy v hb])
  · exact .inl rfl

end

/-- A step that writes to a word the write leaves alone. -/
theorem step_write_ignored {s : State} {off : Nat} {v : Word} {rest : List Turn} {tgt : Target}
    (h : s.script = .write (Config.hw.base + off) v :: rest) (ht : targetOf Config.hw off = some tgt)
    (hw : writeTarget Config.hw v tgt (setScript rest s) = setScript rest s) :
    step s = .next { s with script := rest, response := .written } := by
  rw [step_write h (offset_lt_of_targetOf Config.hw_wellFormed ht) ht, hw]
  rfl

/-! ### Reads -/

/-- A host read leaves the data on the bus and does nothing else. -/
theorem hostRead_next {c : Config} {addr : Nat} {s t : State} (h : hostRead c addr s = .next t) :
    t = respond t.response s := by
  obtain ⟨-, -, -, -, rfl⟩ := hostAccess_next h
  rfl

/-- Settles O12: whatever word the address names, a read that answers is a `respond`. -/
theorem readsHaveNoSideEffect : Obligations.ReadsHaveNoSideEffect := by
  intro s t addr rest hs h
  rw [step, stepWith_cons hs] at h
  exact hostRead_next h

/-! ### Reserved bits -/

theorem getLsbD_and_mask {v m : Word} {i : Nat} (h : m.getLsbD i = true) : (v &&& m).getLsbD i = v.getLsbD i := by
  rw [BitVec.getLsbD_and, h, Bool.and_true]

/-- A CTRL write acts by its bits 0 and 1 (10_state.md R36). -/
theorem ctrlWrite_mask (v : Word) (s : State) : ctrlWrite (v &&& 0x3#32) s = ctrlWrite v s := by
  rw [ctrlWrite, ctrlWrite, getLsbD_and_mask (i := 0) (by decide), getLsbD_and_mask (i := 1) (by decide)]

/-- A STATUS write acts by its bits 1 and 2 (10_state.md R50). -/
theorem statusWrite_mask (v : Word) (s : State) : statusWrite (v &&& 0x6#32) s = statusWrite v s := by
  rw [statusWrite, statusWrite, getLsbD_and_mask (i := 1) (by decide), getLsbD_and_mask (i := 2) (by decide)]

theorem ctrlWord_reserved (s : State) : (ctrlWord s).extractLsb' 1 31 = 0#31 := by
  rw [ctrlWord]
  cases s.irqEn <;> decide

/-- Settles O13: a read-only offset names a read-only word, and CTRL and STATUS look at their own bits of the word
only. -/
theorem readOnlyIgnoredWriteOnlyReadsZero : Obligations.ReadOnlyIgnoredWriteOnlyReadsZero := by
  intro s off v rest
  refine ⟨fun hoff h => ?_, fun hoff h => ?_, fun h => ?_, fun h => ?_, fun h => ?_, fun h => ?_⟩
  · obtain ⟨tgt, ht, hro⟩ := targetOf_readOnlyOffset Config.hw_wellFormed hoff
    exact step_write_ignored h ht (writeTarget_readOnly hro)
  · rcases hoff with rfl | ⟨h4, hlo, hhi⟩
    · exact step_readReg h lookup_cmd
    · obtain ⟨i, rfl⟩ : ∃ i, off = 0x040 + 4 * i := ⟨(off - 0x040) / 4, by omega⟩
      exact step_readReg h (lookup_key ⟨i, by omega⟩)
  · refine ⟨_, step_writeReg h lookup_status, rfl, ?_⟩
    rw [step_writeReg (s := { s with script := _ }) rfl lookup_status, writeReg, statusWrite_mask]
    rfl
  · rw [step_writeReg h lookup_ctrl, step_writeReg (s := { s with script := _ }) rfl lookup_ctrl, writeReg, writeReg,
      ctrlWrite_mask]
    rfl
  · exact ⟨_, step_readReg h lookup_ctrl, ctrlWord_reserved s⟩
  · obtain ⟨-, -, -, hzero⟩ := statusWord_flags s
    obtain ⟨-, -, -, hhigh⟩ := statusWord_fields s
    exact ⟨_, step_readReg h lookup_status, hzero, hhigh⟩

/-! ### What a command leaves alone -/

theorem SameInputs.refl (s : State) : SameInputs s s := ⟨⟨rfl, rfl, rfl, rfl, rfl⟩, ⟨rfl, rfl, rfl⟩, rfl, rfl⟩

section
variable {c : Config} {s t : State}

theorem sameInputs_checkLengths {ok : State → State} (hok : SameInputs s (ok s)) :
    SameInputs s (checkLengths c ok s) := by
  rcases checkLengths_cases c ok s with ⟨-, h⟩ | ⟨-, -, h⟩ | ⟨-, -, h⟩ <;> rw [h]
  · exact SameInputs.refl s
  · exact SameInputs.refl s
  · exact hok

theorem sameInputs_checkPadLength : SameInputs s (checkPadLength c s) := by
  rcases checkPadLength_cases c s with ⟨-, h⟩ | ⟨-, h⟩ <;> rw [h] <;> exact SameInputs.refl s

theorem sameInputs_compareTags : SameInputs s (compareTags s) := by
  rcases compareTags_cases s with ⟨-, h⟩ | ⟨-, h⟩ <;> rw [h] <;> exact SameInputs.refl s

theorem sameInputs_cipher {e : Err} {next : State → State} (hn : ∀ u, SameInputs u (next u)) :
    SameInputs s (cipher c e next s) := by
  rcases cipher_cases c e next s with ⟨-, h⟩ | ⟨r, -, h⟩ <;> rw [h]
  · exact SameInputs.refl s
  · have hput : SameInputs s (putStage r (logEvent (.apply s.key s.nonce 1#64 (dataOperand c s) .ok) s)) :=
      SameInputs.refl s
    exact hput.trans (hn _)

theorem sameInputs_commit : SameInputs s (commit s) := by
  rw [commit_frame]
  exact SameInputs.refl s

/-- No step of a command writes an operand, an input buffer, IRQ_EN or OVERRUN. -/
theorem sameInputs_execOn {i : Instr} (h : execOn c i s = .next t) : SameInputs s t := by
  rcases execOn_next h with ⟨-, rfl⟩ | ⟨-, -, rfl⟩ | ⟨-, -, rfl⟩ | ⟨-, -, rfl⟩ | ⟨-, -, rfl⟩ | ⟨-, -, rfl⟩ | ⟨-, -, rfl⟩
    | ⟨-, -, rfl⟩ | ⟨-, -, rfl⟩ | ⟨-, -, rfl⟩ | ⟨-, -, rfl⟩ | ⟨-, -, rfl⟩ | ⟨-, -, rfl⟩ | ⟨-, rfl⟩
  · exact SameInputs.refl s
  · exact sameInputs_checkLengths (SameInputs.refl s)
  · exact sameInputs_checkLengths sameInputs_checkPadLength
  · exact SameInputs.refl s
  · simp [SameInputs]
  · simp [SameInputs]
  · simp [SameInputs, deriveKeyStaged]
  · exact sameInputs_cipher SameInputs.refl
  · exact sameInputs_cipher SameInputs.refl
  · simp [SameInputs, encryptMac, macLogged]
  · simp [SameInputs, decryptMac, macLogged]
  · exact sameInputs_compareTags
  · simp [SameInputs, padOut]
  · exact sameInputs_commit

theorem sameInputs_illegalStep {why : Illegal} (h : illegalStep why s = .next t) : SameInputs s t := by
  rcases illegalStep_next h with ⟨-, rfl⟩ | ⟨-, rfl⟩ | ⟨-, rfl⟩
  · exact SameInputs.refl t
  · exact SameInputs.refl s
  · exact sameInputs_commit

theorem sameInputs_sequencerTurn (h : sequencerTurn (execOn c) s = .next t) : SameInputs s t := by
  rcases sequencerTurn_next h with ⟨-, rfl⟩ | ⟨-, i, -, hex⟩ | ⟨-, why, -, hill⟩
  · exact SameInputs.refl t
  · exact sameInputs_execOn hex
  · exact sameInputs_illegalStep hill

end

/-! ### Operands while a command runs -/

/-- `s` and `t` agree on the operands of 20_memory.md R91, unlisted bytes of the input buffers included: IRQ_EN and
OVERRUN, which `SameInputs` holds fixed too, a host may write while BUSY = 1. -/
def SameOperandFields (s t : State) : Prop :=
  (t.key = s.key ∧ t.nonce = s.nonce ∧ t.tagIn = s.tagIn) ∧ (t.aadLen = s.aadLen ∧ t.dataLen = s.dataLen)
    ∧ t.aadMem = s.aadMem ∧ t.inMem = s.inMem ∧ t.powerOns = s.powerOns

theorem SameOperandFields.refl (s : State) : SameOperandFields s s :=
  ⟨⟨rfl, rfl, rfl⟩, ⟨rfl, rfl⟩, rfl, rfl, rfl⟩

theorem SameInputs.sameOperandFields {s t : State} (h : SameInputs s t) : SameOperandFields s t := by
  obtain ⟨⟨hkey, hnonce, htag, haadLen, hdataLen⟩, ⟨haad, hin, hdraws⟩, -, -⟩ := h
  exact ⟨⟨hkey, hnonce, htag⟩, ⟨haadLen, hdataLen⟩, haad, hin, hdraws⟩

/-- A host write to a running block leaves the operands alone, unless it is the soft reset that ends the command. -/
theorem sameOperandFields_hostWrite {c : Config} {addr : Nat} {v : Word} {s t : State}
    (h : hostWrite c addr v s = .next t) (hb : s.busy = true) (ht : t.busy = true) : SameOperandFields s t := by
  obtain ⟨-, tgt, -, -, rfl⟩ := hostAccess_next h
  rcases writeTarget_busy_frame (c := c) (v := v) (tgt := tgt) hb with hw | hw <;> rw [hw] at ht ⊢
  · exact SameOperandFields.refl s
  · exact absurd ht Bool.false_ne_true

/-- A step that leaves BUSY = 1 leaves the operands as they were. -/
theorem sameOperandFields_step {s t : State} (hb : s.busy = true) (h : step s = .next t) (ht : t.busy = true) :
    SameOperandFields s t := by
  rw [step_eq_stepOn, stepOn] at h
  cases hs : s.script with
  | nil =>
    rw [stepWith_nil hs] at h
    exact (sameInputs_sequencerTurn h).sameOperandFields
  | cons turn rest =>
    rw [stepWith_cons hs] at h
    cases turn with
    | read addr =>
      rw [hostRead_next h]
      exact SameOperandFields.refl s
    | write addr v => exact sameOperandFields_hostWrite (s := setScript rest s) h hb ht
    | sequencer => exact (sameInputs_sequencerTurn h).sameOperandFields
    | powerOnReset =>
      cases h
      exact absurd ht Bool.false_ne_true

/-- Settles O14: `unlessBusy` for the writes that are ignored, the three control registers one by one, and the frame of
a step that leaves BUSY = 1. -/
theorem operandWritesIgnoredWhileBusy : Obligations.OperandWritesIgnoredWhileBusy := by
  refine ⟨fun s off v rest hb h => ⟨fun hoff => ?_, fun hoff hv => ?_, fun hoff hv => ?_, fun hoff => ?_, fun hoff => ?_⟩,
    fun s t => sameOperandFields_step⟩
  · obtain ⟨tgt, ht, hop⟩ := targetOf_operandOffset Config.hw_wellFormed hoff
    exact step_write_ignored h ht (writeTarget_operand_busy hop hb)
  · subst hoff
    exact (ctrlSetsAndReadsInterruptEnable s v rest).1 h hv
  · subst hoff
    refine ⟨_, step_writeReg h lookup_ctrl, ?_⟩
    rw [writeReg, ctrlWrite_reset _ hv]
    simp [AtResetValues]
  · subst hoff
    exact step_writeReg h lookup_status
  · subst hoff
    exact cmdWriteWhileBusyOnlySetsOverrun s v rest h hb

end Sys2Proof.Machine

/-! The statements of 30_encoding.md: which words the decoder takes for a command, and the order of the tests of phase
CHECK. First the decoder in numbers, said once for every word. -/

namespace Sys2Proof

/-! ### The decoder in numbers -/

theorem toNat_opcodeOf (w : Word) : (opcodeOf w).toNat = w.toNat % 16 := by
  simp [opcodeOf]

theorem reservedOf_eq_zero_iff (w : Word) : reservedOf w = 0#28 ↔ w.toNat / 16 = 0 := by
  have hw := w.isLt
  rw [← BitVec.toNat_inj, reservedOf, BitVec.extractLsb'_toNat, Nat.shiftRight_eq_div_pow, BitVec.toNat_zero,
    Nat.mod_eq_of_lt (by omega)]

theorem decode_encode (i : Instr) : decode (encode i) = .command i := by
  cases i <;> decide

/-- The opcode map of R121 refuses an opcode for being 0 or at least 5. -/
theorem opcodeMap_of_unassigned {op : BitVec 4} (h : op.toNat = 0 ∨ 5 ≤ op.toNat) :
    opcodeMap op = .illegal .badOpcode := by
  have hne (k : BitVec 4) (hk : k.toNat ≠ 0 ∧ k.toNat < 5) : op ≠ k := by
    rintro rfl
    omega
  rw [opcodeMap, if_neg (hne _ (by decide)), if_neg (hne _ (by decide)), if_neg (hne _ (by decide)),
    if_neg (hne _ (by decide))]

/-- A number from 1 to 4 is a command's word. -/
theorem exists_eq_encode {w : Word} (hlo : 1 ≤ w.toNat) (hhi : w.toNat ≤ 4) : ∃ i, w = encode i := by
  obtain h | h | h | h : w.toNat = 1 ∨ w.toNat = 2 ∨ w.toNat = 3 ∨ w.toNat = 4 := by omega
  · exact ⟨.encrypt, BitVec.eq_of_toNat_eq h⟩
  · exact ⟨.decrypt, BitVec.eq_of_toNat_eq h⟩
  · exact ⟨.pad, BitVec.eq_of_toNat_eq h⟩
  · exact ⟨.deriveKey, BitVec.eq_of_toNat_eq h⟩

/-- Every CMD word has a reserved bit set, or else an unassigned opcode, or is a command's word (R121 to R123). -/
theorem decode_cases (w : Word) :
    (w.toNat / 16 ≠ 0 ∧ decode w = .illegal .reservedBits)
    ∨ (w.toNat / 16 = 0 ∧ (w.toNat % 16 = 0 ∨ 5 ≤ w.toNat % 16) ∧ decode w = .illegal .badOpcode)
    ∨ ∃ i, w = encode i ∧ decode w = .command i := by
  by_cases hrsv : w.toNat / 16 = 0
  · by_cases hop : w.toNat % 16 = 0 ∨ 5 ≤ w.toNat % 16
    · refine .inr (.inl ⟨hrsv, hop, ?_⟩)
      rw [decode, if_neg (not_not.2 ((reservedOf_eq_zero_iff w).2 hrsv))]
      exact opcodeMap_of_unassigned (by rwa [toNat_opcodeOf])
    · obtain ⟨i, rfl⟩ := exists_eq_encode (w := w) (by omega) (by omega)
      exact .inr (.inr ⟨i, rfl, decode_encode i⟩)
  · exact .inl ⟨hrsv, if_pos (mt (reservedOf_eq_zero_iff w).1 hrsv)⟩

theorem decode_eq_command_iff (w : Word) (i : Instr) : decode w = .command i ↔ w = encode i := by
  refine ⟨fun h => ?_, fun h => h ▸ decode_encode i⟩
  rcases decode_cases w with ⟨-, hd⟩ | ⟨-, -, hd⟩ | ⟨j, hw, hd⟩ <;> rw [hd] at h
  · cases h
  · cases h
  · cases h
    exact hw

theorem encode_toNat_lt (i : Instr) : (encode i).toNat < 16 := by
  cases i <;> decide

theorem eq_encode_iff (w : Word) (i : Instr) :
    w = encode i ↔ w.toNat / 16 = 0 ∧ w.toNat % 16 = (encode i).toNat := by
  have hi := encode_toNat_lt i
  rw [← BitVec.toNat_inj]
  omega

/-- Settles O21: the decoder takes a word for a command exactly when it is the command's word, and that word is below 16
with the command's opcode as its value. -/
theorem wordSelectsItsCommandOnly : Obligations.WordSelectsItsCommandOnly := by
  intro w i
  refine ⟨decode_eq_command_iff w i, ?_⟩
  rw [decode_eq_command_iff, eq_encode_iff]
  cases i <;> rfl

/-! ### A command's opcode -/

theorem encode_opcode_assigned (i : Instr) : ¬ ((encode i).toNat % 16 = 0 ∨ 5 ≤ (encode i).toNat % 16) := by
  cases i <;> decide

theorem encode_opcode_eq_pad_iff (i : Instr) : (encode i).toNat % 16 = 3 ↔ i = .pad := by
  cases i <;> decide

theorem encode_opcode_eq_deriveKey_iff (i : Instr) : (encode i).toNat % 16 = 4 ↔ i = .deriveKey := by
  cases i <;> decide

end Sys2Proof

namespace Sys2Proof.Machine

/-! ### Phase CHECK -/

/-- A command's step in CHECK: DERIVE_KEY reads neither length, and only PAD has its output's length tested (R123). -/
theorem exec_check {s : State} (i : Instr) (h : s.phase = .check) : exec i s = .next
    (if i ≠ .deriveKey ∧ Config.hw.aadCap < aadLength s then fail .lengthError .aadTooLong s
    else if i ≠ .deriveKey ∧ Config.hw.dataCap < dataLength s then fail .lengthError .dataTooLong s
    else if i = .pad ∧ Config.hw.outCap < padLength s then fail .lengthError .padTooLong s
    else goTo (if i = .pad then .padout else .keygen) s) := by
  cases i with
  | encrypt => simp [exec, execEncrypt, encryptOn, h, checkLengths]
  | decrypt => simp [exec, execDecrypt, decryptOn, h, checkLengths]
  | pad => simp [exec, execPad, padOn, h, checkLengths, checkPadLength]
  | deriveKey => simp [exec, execDeriveKey, deriveKeyOn, h]

theorem illegalStep_check {s : State} (why : Illegal) (h : s.phase = .check) :
    illegalStep why s = .next (fail .illegalCommand (illegalCause why) s) := by
  simp only [illegalStep, h]

/-- Settles O27: the word's tests by the three cases of the decoder, the lengths' by the command's step in CHECK. -/
theorem checkPhaseInItsOrder : Obligations.CheckPhaseInItsOrder := by
  obtain ⟨-, -, ⟨-, hcap, -⟩, -⟩ := (Config.wellFormed_iff _).1 Config.hw_wellFormed
  refine ⟨max_le_iff.1 hcap, fun s hp => ⟨fun hs => ?_, fun i => exec_check i hp⟩⟩
  have hidle : s.phase ≠ .idle := by simp [hp]
  rw [step, stepWith_nil hs]
  rcases decode_cases s.cmdw with ⟨hrsv, hd⟩ | ⟨hrsv, hop, hd⟩ | ⟨i, hw, hd⟩
  · rw [sequencerTurn_illegal hidle hd, illegalStep_check _ hp, if_pos hrsv]
    rfl
  · rw [sequencerTurn_illegal hidle hd, illegalStep_check _ hp, if_neg (not_not.2 hrsv), if_pos hop]
    rfl
  · have hrsv : ¬ s.cmdw.toNat / 16 ≠ 0 := not_not.2 ((eq_encode_iff _ i).1 hw).1
    have hop := encode_opcode_assigned i
    have hpad := encode_opcode_eq_pad_iff i
    have hkey := encode_opcode_eq_deriveKey_iff i
    rw [← hw] at hop hpad hkey
    simp only [sequencerTurn_command hidle hd, exec_check i hp, if_neg hrsv, if_neg hop, ne_eq, hkey, hpad]
    rfl

end Sys2Proof.Machine

/-! The statements of 40_pad.md: rounding up to 16, the length encoding, and where each byte of the padded message
lies. -/

namespace Sys2Proof.Machine

/-! ### The length encoding -/

theorem getElem?_le64 (n : Nat) {i : Nat} (h : i < 8) :
    (le64 n)[i]? = some (BitVec.ofNat 8 (n / 2 ^ (8 * i))) := by
  simp [le64, h]

/-- The first `k` base-256 digits of `n`, least significant first, are worth `n` modulo `2 ^ (8 * k)`. -/
theorem leValue_digits (k n : Nat) :
    leValue ((List.range k).map fun i => BitVec.ofNat 8 (n / 2 ^ (8 * i))) = n % 2 ^ (8 * k) := by
  induction k generalizing n with
  | zero => simp [leValue, Nat.mod_one]
  | succ k ih =>
    have hdigit (i : Nat) : n / 2 ^ (8 * (i + 1)) = n / 256 / 2 ^ (8 * i) := by
      rw [Nat.div_div_eq_div_mul, Nat.mul_succ, Nat.pow_add, Nat.mul_comm]
    have hmod : n % 2 ^ (8 * (k + 1)) = n % 256 + 256 * (n / 256 % 2 ^ (8 * k)) := by
      rw [Nat.mul_succ, Nat.pow_add, Nat.mul_comm, Nat.mod_mul]
    rw [hmod, ← ih]
    simp [List.range_succ_eq_map, Function.comp_def, leValue, hdigit]

theorem leValue_le64 {n : Nat} (h : n < 2 ^ 64) : leValue (le64 n) = n :=
  (leValue_digits 8 n).trans (Nat.mod_eq_of_lt h)

/-- Settles O58: `ru16` by its bounds, `le64` digit by digit and by the worth of its eight digits. -/
theorem roundingAndLengthEncoding : Obligations.RoundingAndLengthEncoding := by
  refine fun n => ⟨⟨dvd_ru16 n, le_ru16 n, ru16_lt n⟩, fun hn => ⟨length_le64 n, fun i b hb => ?_, leValue_le64 hn⟩⟩
  have hi : i < 8 := by simpa using (List.getElem?_eq_some_iff.1 hb).1
  rw [getElem?_le64 n hi, Option.some_inj] at hb
  rw [← hb, BitVec.toNat_ofNat]

/-! ### The padded message's layout -/

/-- A byte sequence followed by zeros up to the next multiple of 16: one of the two halves R152 joins. -/
def padded (a : List Byte) : List Byte := a ++ zeros (ru16 a.length - a.length)

@[simp] theorem length_padded (a : List Byte) : (padded a).length = ru16 a.length := by
  have := le_ru16 a.length
  simp only [padded, List.length_append, length_zeros]
  omega

theorem padMessage_eq_padded (a d : List Byte) :
    padMessage a d = padded a ++ (padded d ++ (le64 a.length ++ le64 d.length)) := by
  simp only [padMessage, padded, List.append_assoc]

theorem getElem?_padded_of_lt {a : List Byte} {i : Nat} (h : i < a.length) : (padded a)[i]? = a[i]? :=
  List.getElem?_append_left h

theorem getElem?_padded_of_le {a : List Byte} {i : Nat} (h : a.length ≤ i) (hi : i < ru16 a.length) :
    (padded a)[i]? = some 0#8 := by
  rw [padded, List.getElem?_append_right h, zeros, List.getElem?_replicate_of_lt (by omega)]

theorem getElem?_padMessage_aad (a d : List Byte) {i : Nat} (h : i < ru16 a.length) :
    (padMessage a d)[i]? = (padded a)[i]? := by
  rw [padMessage_eq_padded, List.getElem?_append_left (by simpa using h)]

/-- From the AAD's rounded length on, the message is the padded data and the two lengths. -/
theorem getElem?_padMessage_add (a d : List Byte) (i : Nat) :
    (padMessage a d)[ru16 a.length + i]? = (padded d ++ (le64 a.length ++ le64 d.length))[i]? := by
  rw [padMessage_eq_padded, ← length_padded a, List.getElem?_append_right (by omega), Nat.add_sub_cancel_left]

theorem getElem?_padMessage_data (a d : List Byte) {i : Nat} (h : i < ru16 d.length) :
    (padMessage a d)[ru16 a.length + i]? = (padded d)[i]? := by
  rw [getElem?_padMessage_add, List.getElem?_append_left (by simpa using h)]

theorem getElem?_padMessage_lengths (a d : List Byte) (i : Nat) :
    (padMessage a d)[ru16 a.length + ru16 d.length + i]? = (le64 a.length ++ le64 d.length)[i]? := by
  rw [Nat.add_assoc, getElem?_padMessage_add, ← length_padded d, List.getElem?_append_right (by omega),
    Nat.add_sub_cancel_left]

theorem padMessage_nil : padMessage [] [] = List.replicate 16 0#8 := by decide

/-- Settles O59: the message is the padded AAD, the padded data and the two lengths, read part by part. -/
theorem paddedMessageLayout : Obligations.PaddedMessageLayout := by
  intro a d
  refine ⟨length_padMessage a d, ?_, padMessage_nil, fun i hi => ?_, fun i hi hr => ?_, fun i hi => ?_,
    fun i hi hr => ?_, fun i hi => ?_, fun i hi => ?_⟩
  · rw [length_padMessage]
    exact ((dvd_ru16 _).add (dvd_ru16 _)).add (dvd_refl 16)
  · rw [getElem?_padMessage_aad a d (hi.trans_le (le_ru16 _)), getElem?_padded_of_lt hi]
  · rw [getElem?_padMessage_aad a d hr, getElem?_padded_of_le hi hr]
  · rw [getElem?_padMessage_data a d (hi.trans_le (le_ru16 _)), getElem?_padded_of_lt hi]
  · rw [getElem?_padMessage_data a d hr, getElem?_padded_of_le hi hr]
  · rw [getElem?_padMessage_lengths, List.getElem?_append_left (by simpa using hi)]
  · rw [Nat.add_assoc _ 8 i, getElem?_padMessage_lengths, List.getElem?_append_right (by simp), length_le64,
      Nat.add_sub_cancel_left]

end Sys2Proof.Machine

/-! The statement of 41_keysched.md: the step of phase KEYGEN. First what staging a byte sequence leaves in the stage
buffer. -/

namespace Sys2Proof.Machine

/-! ### The stage buffer -/

/-- The bytes of the stage once `bs` is staged: `bs`, and beyond it what stood there. -/
theorem stageByte_putStage (bs : List Byte) (s : State) (a : Nat) :
    stageByte (putStage bs s) a = if h : a < bs.length then bs[a] else stageByte s a := by
  rw [stageByte, putStage_stage, read_writeBytes_zero]
  rfl

/-- DERIVE_KEY stages the 32 bytes of the MAC key. -/
theorem stageByte_deriveKeyStaged (s : State) (a : Nat) :
    stageByte (deriveKeyStaged s) a = if a < 32 then byteAt s.mackey a else stageByte s a := by
  have hput : stageByte (deriveKeyStaged s) a = stageByte (putStage (bytesOf s.mackey 32) s) a := rfl
  rw [hput, stageByte_putStage]
  simp only [length_bytesOf, getElem_bytesOf, dite_eq_ite]

theorem deriveKeyStaged_frame (s : State) : deriveKeyStaged s = { s with
    stage := (deriveKeyStaged s).stage, stageLen := 32, stageTag := 0#128, phase := .commit } := by
  have hlen : (deriveKeyStaged s).stageLen = 32 := length_bytesOf s.mackey 32
  rw [← hlen]
  rfl

/-! ### Phase KEYGEN -/

section
variable {c : Config} {s : State}

theorem execOn_encrypt_keygen (h : s.phase = .keygen) : execOn c .encrypt s = .next (goTo .cipher (keygen c s)) := by
  simp only [execOn, encryptOn, h]

theorem execOn_decrypt_keygen (h : s.phase = .keygen) : execOn c .decrypt s = .next (goTo .mac (keygen c s)) := by
  simp only [execOn, decryptOn, h]

theorem execOn_deriveKey_keygen (h : s.phase = .keygen) :
    execOn c .deriveKey s = .next (deriveKeyStaged (keygen c s)) := by
  simp only [execOn, deriveKeyOn, h]

end

/-- Settles O28: `keygen` derives the key for all three commands; ENCRYPT and DECRYPT only move on, DERIVE_KEY stages the
key it derived. -/
theorem keygenPhaseDerivesTheMacKey : Obligations.KeygenPhaseDerivesTheMacKey := by
  intro s hp
  refine ⟨?_, ?_, deriveKeyStaged (keygen Config.hw s), ?_, ?_, stageByte_deriveKeyStaged (keygen Config.hw s)⟩
  · rw [exec_eq_execOn, execOn_encrypt_keygen hp]
    rfl
  · rw [exec_eq_execOn, execOn_decrypt_keygen hp]
    rfl
  · rw [exec_eq_execOn, execOn_deriveKey_keygen hp]
  · exact deriveKeyStaged_frame (keygen Config.hw s)

end Sys2Proof.Machine

/-! The statements of 42_encrypt.md: the steps of phases CIPHER and MAC. First the operands byte by byte and the apply
port from counter 1. -/

namespace Sys2Proof.Machine

section
variable {c : Config} {s : State}

/-! ### The operands and the apply port -/

@[simp] theorem length_dataOperand : (dataOperand c s).length = s.dataLen.toNat := Memory.length_readBytes _ _ _

theorem getElem?_dataOperand {i : Nat} (h : i < s.dataLen.toNat) : (dataOperand c s)[i]? = some (inByte c s i) := by
  simp [dataOperand_eq, h]

theorem stageBytes_eq (s : State) (n : Nat) : stageBytes s n = (List.range n).map (stageByte s) := readBytes_zero _ _ _

/-- From counter 1 the apply port takes SC_MAX_COUNTER blocks and no more (45_collaborators.md R243). -/
theorem scApply_one_eq_none_iff {k : Key} {n : Nonce} {d : List Byte} :
    scApply c k n 1#64 d = none ↔ 64 * c.scMaxCounter < d.length := by
  have h1 : (1#64).toNat = 1 := rfl
  rw [scApply_eq_none, applyFails, Bool.and_eq_true, decide_eq_true_eq, decide_eq_true_eq, blocksFor, h1]
  omega

theorem length_scApply_dataOperand {r : List Byte} (hr : scApply c s.key s.nonce 1#64 (dataOperand c s) = some r) :
    r.length = s.dataLen.toNat := by
  rw [length_scApply hr, length_dataOperand]

/-- What the apply port returns for the data: each byte combined with the keystream from counter 1. -/
theorem getElem?_scApply_dataOperand {r : List Byte} (hr : scApply c s.key s.nonce 1#64 (dataOperand c s) = some r)
    {i : Nat} (h : i < s.dataLen.toNat) : r[i]? = some (inByte c s i ^^^ streamByte c s i) :=
  getElem?_scApply hr (getElem?_dataOperand h)

/-! ### Phase CIPHER -/

theorem execOn_encrypt_cipher (h : s.phase = .cipher) :
    execOn c .encrypt s = .next (cipher c .encryptionFailure (goTo .mac) s) := by
  simp only [execOn, encryptOn, h]

theorem execOn_decrypt_cipher (h : s.phase = .cipher) :
    execOn c .decrypt s = .next (cipher c .decryptionFailure decryptStaged s) := by
  simp only [execOn, decryptOn, h]

/-- Beyond the stream limit the phase fails. -/
theorem cipher_of_lt (e : Err) (next : State → State) (h : 64 * c.scMaxCounter < s.dataLen.toNat) :
    cipher c e next s =
      fail e .streamLimit (logEvent (.apply s.key s.nonce 1#64 (dataOperand c s) .streamCipherError) s) := by
  have hnone : scApply c s.key s.nonce 1#64 (dataOperand c s) = none :=
    scApply_one_eq_none_iff.2 (by rwa [length_dataOperand])
  rw [cipher, hnone]

/-- Within the stream limit the apply port answers. -/
theorem exists_scApply_of_le (h : s.dataLen.toNat ≤ 64 * c.scMaxCounter) :
    ∃ r, scApply c s.key s.nonce 1#64 (dataOperand c s) = some r := by
  refine Option.ne_none_iff_exists'.1 fun hnone => ?_
  have := scApply_one_eq_none_iff.1 hnone
  rw [length_dataOperand] at this
  omega

/-- When the apply port answers, its bytes are staged and the command goes on. -/
theorem cipher_of_scApply (e : Err) (next : State → State) {r : List Byte}
    (hr : scApply c s.key s.nonce 1#64 (dataOperand c s) = some r) :
    cipher c e next s = next (putStage r (logEvent (.apply s.key s.nonce 1#64 (dataOperand c s) .ok) s)) := by
  rw [cipher, hr]

/-- The stage once the transformed data is staged. -/
theorem stageByte_putStage_scApply {r : List Byte} (hr : scApply c s.key s.nonce 1#64 (dataOperand c s) = some r)
    (u : State) (a : Nat) :
    stageByte (putStage r u) a =
      if a < s.dataLen.toNat then inByte c s a ^^^ streamByte c s a else stageByte u a := by
  have hlen := length_scApply_dataOperand hr
  rw [stageByte_putStage]
  by_cases ha : a < s.dataLen.toNat
  · rw [dif_pos (hlen ▸ ha), if_pos ha]
    exact (List.getElem_eq_iff _).2 (getElem?_scApply_dataOperand hr ha)
  · rw [dif_neg (hlen ▸ ha), if_neg ha]

/-! ### Phase MAC -/

theorem execOn_encrypt_mac (h : s.phase = .mac) : execOn c .encrypt s = .next (encryptMac c s) := by
  simp only [execOn, encryptOn, h]

theorem execOn_decrypt_mac (h : s.phase = .mac) : execOn c .decrypt s = .next (decryptMac c s) := by
  simp only [execOn, decryptOn, h]

theorem macMessage_eq (ct : List Byte) :
    macMessage c ct s = padMessage ((List.range s.aadLen.toNat).map (aadByte c s)) ct := by
  rw [macMessage, aadOperand_eq]

end

/-- Settles O29: the apply port from counter 1 fails exactly beyond 64 * SC_MAX_COUNTER bytes; otherwise both commands
stage what it returns. -/
theorem cipherPhaseTransformsOrFails : Obligations.CipherPhaseTransformsOrFails := by
  intro s hp
  refine ⟨fun c hlong => ⟨?_, ?_⟩, fun c hfits => ?_, exec_eq_execOn _ s, exec_eq_execOn _ s⟩
  · rw [execOn_encrypt_cipher hp, cipher_of_lt _ _ hlong]
    rfl
  · rw [execOn_decrypt_cipher hp, cipher_of_lt _ _ hlong]
    rfl
  · obtain ⟨r, hr⟩ := exists_scApply_of_le hfits
    refine ⟨_, _, execOn_encrypt_cipher hp, execOn_decrypt_cipher hp, ?_, ?_, fun a => ?_⟩
    · rw [cipher_of_scApply _ _ hr, ← length_scApply_dataOperand hr]
      rfl
    · rw [cipher_of_scApply _ _ hr, cipher_of_scApply _ _ hr]
      rfl
    · rw [cipher_of_scApply _ _ hr]
      exact stageByte_putStage_scApply hr (logEvent _ s) a

/-- Settles O30: both commands sign the AAD first; ENCRYPT over the ciphertext it staged, DECRYPT over the host's. -/
theorem macPhaseSignsTheCiphertext : Obligations.MacPhaseSignsTheCiphertext := by
  intro s hp
  constructor
  · rw [exec_eq_execOn, execOn_encrypt_mac hp, ← stageBytes_eq, ← macMessage_eq]
    rfl
  · rw [exec_eq_execOn, execOn_decrypt_mac hp, ← dataOperand_eq, ← macMessage_eq]
    rfl

end Sys2Proof.Machine

/-! The statements of 43_decrypt.md: the step of phase COMPARE, and that DECRYPT turns back what ENCRYPT commits. First
the comparator (44_tag_comparator.md R230), then what a successful commit publishes, then the two commands from the
host's CMD write to the commit, turn by turn. -/

namespace Sys2Proof.Machine

/-! ### Phase COMPARE -/

/-- Two tags that agree in all 16 bytes are equal: bit `j` of a tag is bit `j % 8` of its byte `j / 8`. -/
theorem eq_of_forall_byteAt_eq {x y : Tag} (h : ∀ i, i < 16 → byteAt x i = byteAt y i) : x = y := by
  refine BitVec.eq_of_getLsbD_eq fun j hj => ?_
  have hmod : j % 8 < 8 := Nat.mod_lt j (by decide)
  have hbit := congrArg (·.getLsbD (j % 8)) (h (j / 8) (by omega))
  simpa only [getLsbD_byteAt, hmod, decide_true, Bool.true_and, Nat.div_add_mod] using hbit

theorem ctEq16_iff (x y : Tag) : ctEq16 x y = true ↔ x = y := by
  rw [ctEq16, beq_iff_eq, tagDifference_eq_zero]
  exact ⟨eq_of_forall_byteAt_eq, fun h i _ => h ▸ rfl⟩

theorem execOn_decrypt_compare {c : Config} {s : State} (h : s.phase = .compare) :
    execOn c .decrypt s = .next (compareTags s) := by
  simp only [execOn, decryptOn, h]

theorem compareTags_of_eq {s : State} (h : s.expTag = s.tagIn) : compareTags s = goTo .cipher s :=
  if_pos ((ctEq16_iff _ _).2 h)

theorem compareTags_of_ne {s : State} (h : s.expTag ≠ s.tagIn) :
    compareTags s = fail .authenticationFailure .tagMismatch s :=
  if_neg fun heq => h ((ctEq16_iff _ _).1 heq)

/-- Settles O31: the comparator accepts exactly equal tags, and the step moves on or enters the error. -/
theorem comparePhaseChecksTheTag : Obligations.ComparePhaseChecksTheTag := by
  intro s hp
  rw [exec_eq_execOn, execOn_decrypt_compare hp]
  by_cases h : s.expTag = s.tagIn
  · rw [compareTags_of_eq h, if_pos h]
    rfl
  · rw [compareTags_of_ne h, if_neg h]
    rfl

/-! ### COMMIT, output by output -/

section
variable {c : Config} {s : State}

theorem execOn_commit (i : Instr) (h : s.phase = .commit) : execOn c i s = .next (commit s) := by
  cases i with
  | encrypt => simp only [execOn, encryptOn, h]
  | decrypt => simp only [execOn, decryptOn, h]
  | pad => simp only [execOn, padOn, h]
  | deriveKey => simp only [execOn, deriveKeyOn, h]

@[simp] theorem commit_err (s : State) : (commit s).err = s.result.1 := by rw [commit_frame]

@[simp] theorem commit_phase (s : State) : (commit s).phase = .idle := by rw [commit_frame]

theorem committedWith_commit (s : State) : CommittedWith s.result.1 s.result.2 s.lastOpc (commit s) := by
  rw [commit_frame]
  exact ⟨rfl, rfl, rfl, rfl, rfl, rfl⟩

theorem commit_outLen_of_ok (h : s.result.1 = .ok) : (commit s).outLen = BitVec.ofNat 64 s.stageLen := by
  rw [commit_ok h]
  rfl

theorem commit_tagOut_of_ok (h : s.result.1 = .ok) : (commit s).tagOut = s.stageTag := by
  rw [commit_ok h]
  rfl

theorem outByte_commit_of_ok (h : s.result.1 = .ok) {a : Nat} (ha : a < s.stageLen) :
    outByte (commit s) a = stageByte s a := by
  rw [commit_ok h]
  exact (outByte_publish s a).trans (if_pos ha)

/-! ### A command's turns, with no host turn to come -/

/-- Command `i` is the latched one and every turn to come is the sequencer's. -/
structure RunsAlone (i : Instr) (s : State) : Prop where
  script : s.script = []
  word : decode s.cmdw = .command i

theorem RunsAlone.of_goTo {i : Instr} (h : RunsAlone i s) (p : Phase) : RunsAlone i (goTo p s) := ⟨h.script, h.word⟩

theorem RunsAlone.turn {i : Instr} {p : Phase} {t : State} (h : RunsAlone i s) (hp : s.phase = p) (hne : p ≠ .idle)
    (he : execOn c i s = .next t) (n : Nat) : runOn c (n + 1) s = runOn c n t :=
  runOn_command n h.script (hp ▸ hne) h.word he

/-- An idle block stays as it is. -/
theorem runOn_idle (n : Nat) (hs : s.script = []) (hp : s.phase = .idle) : runOn c n s = .next s := by
  induction n with
  | zero => rfl
  | succ n ih => rw [runOn, stepOn, stepWith_nil hs, sequencerTurn_idle hp]; exact ih

/-- From COMMIT the run ends in the commit, however many turns are left. -/
theorem RunsAlone.runOn_commit {i : Instr} (h : RunsAlone i s) (hp : s.phase = .commit) (n : Nat) :
    runOn c (n + 1) s = .next (commit s) := by
  have hscript : (commit s).script = [] := by rw [commit_frame]; exact h.script
  rw [h.turn hp (by decide) (execOn_commit i hp), runOn_idle n hscript (commit_phase s)]

/-- A command that fails commits its error. -/
theorem RunsAlone.err_of_fail {i : Instr} {e : Err} {cause : Cause} {n : Nat} {t : State} (h : RunsAlone i s)
    (hrun : runOn c (n + 1) (fail e cause s) = .next t) : t.err = e := by
  have hfail : RunsAlone i (fail e cause s) := ⟨h.script, h.word⟩
  rw [hfail.runOn_commit rfl n] at hrun
  cases hrun
  exact commit_err _

/-! ### From the CMD write to the end of KEYGEN -/

/-- The block right after the host wrote the command's word: in CHECK, and every turn to come is the sequencer's. -/
def accepted (c : Config) (i : Instr) (s : State) : State :=
  respond .written (accept (encode i) (setScript [] (withCmdWrite c (encode i) s)))

/-- The block once phase KEYGEN of the command is done, in phase `p`. -/
def keyed (c : Config) (i : Instr) (p : Phase) (s : State) : State := goTo p (keygen c (goTo .keygen (accepted c i s)))

theorem runsAlone_accepted (c : Config) (i : Instr) (s : State) : RunsAlone i (accepted c i s) :=
  ⟨rfl, decode_encode i⟩

theorem runsAlone_keyed (c : Config) (i : Instr) (p : Phase) (s : State) : RunsAlone i (keyed c i p s) :=
  ⟨rfl, decode_encode i⟩

@[simp] theorem keyed_phase (c : Config) (i : Instr) (p : Phase) (s : State) : (keyed c i p s).phase = p := rfl

@[simp] theorem keyed_mackey (c : Config) (i : Instr) (p : Phase) (s : State) :
    (keyed c i p s).mackey = macKeyOf c s := by
  simp [keyed, accepted, withCmdWrite, macKeyOf]

@[simp] theorem keyed_result (c : Config) (i : Instr) (p : Phase) (s : State) :
    (keyed c i p s).result = (.ok, .none) := rfl

theorem sameInputs_keyed (c : Config) (i : Instr) (p : Phase) (s : State) : SameInputs s (keyed c i p s) := by
  simp [SameInputs, keyed, accepted, withCmdWrite]

/-- ENCRYPT and DECRYPT, and the phase each goes to after KEYGEN. -/
def KeygenLeadsTo (i : Instr) (p : Phase) : Prop := (i = .encrypt ∧ p = .cipher) ∨ (i = .decrypt ∧ p = .mac)

theorem execOn_check {i : Instr} {p : Phase} (hi : KeygenLeadsTo i p) (h : s.phase = .check) :
    execOn c i s = .next (checkLengths c (goTo .keygen) s) := by
  rcases hi with ⟨rfl, -⟩ | ⟨rfl, -⟩
  · simp only [execOn, encryptOn, h]
  · simp only [execOn, decryptOn, h]

theorem execOn_keygen {i : Instr} {p : Phase} (hi : KeygenLeadsTo i p) (h : s.phase = .keygen) :
    execOn c i s = .next (goTo p (keygen c s)) := by
  rcases hi with ⟨rfl, rfl⟩ | ⟨rfl, rfl⟩
  · exact execOn_encrypt_keygen h
  · exact execOn_decrypt_keygen h

theorem checkLengths_of_le {ok : State → State} (ha : aadLength s ≤ c.aadCap) (hd : dataLength s ≤ c.dataCap) :
    checkLengths c ok s = ok s := by
  rw [checkLengths, if_neg ha.not_gt, if_neg hd.not_gt]

/-- ENCRYPT and DECRYPT from the CMD write to the end of CHECK. -/
theorem runOn_check (n : Nat) {i : Instr} {p : Phase} (hi : KeygenLeadsTo i p) (hb : s.busy = false) :
    runOn c (n + 2) (withCmdWrite c (encode i) s) = runOn c n (checkLengths c (goTo .keygen) (accepted c i s)) :=
  (runOn_accept (n + 1) (encode i) hb).trans
    ((runsAlone_accepted c i s).turn (p := .check) rfl (by decide) (execOn_check hi rfl) n)

/-- With lengths that CHECK lets through, ENCRYPT and DECRYPT reach the phase after KEYGEN. -/
theorem runOn_keyed (n : Nat) {i : Instr} {p : Phase} (hi : KeygenLeadsTo i p) (hb : s.busy = false)
    (ha : aadLength s ≤ c.aadCap) (hd : dataLength s ≤ c.dataCap) :
    runOn c (n + 3) (withCmdWrite c (encode i) s) = runOn c n (keyed c i p s) := by
  have hkeygen := ((runsAlone_accepted c i s).of_goTo .keygen).turn (c := c) (goTo_phase _ _) (by decide)
    (execOn_keygen hi (goTo_phase _ _)) n
  rw [runOn_check (n + 1) hi hb, checkLengths_of_le (s := accepted c i s) ha hd, hkeygen]
  rfl

/-! ### CIPHER -/

/-- The block with the bytes `r` staged that the apply port returned. -/
def applied (c : Config) (r : List Byte) (s : State) : State :=
  putStage r (logEvent (.apply s.key s.nonce 1#64 (dataOperand c s) .ok) s)

theorem RunsAlone.of_applied {i : Instr} (h : RunsAlone i s) (r : List Byte) : RunsAlone i (applied c r s) :=
  ⟨h.script, h.word⟩

theorem scApply_of_sameInputs {u : State} (h : SameInputs s u) :
    scApply c u.key u.nonce 1#64 (dataOperand c u) = scApply c s.key s.nonce 1#64 (dataOperand c s) := by
  have hd := dataOperand_of_sameInputs (c := c) h
  obtain ⟨⟨hkey, hnonce, -⟩, -⟩ := h
  rw [hkey, hnonce, hd]

theorem execOn_encrypt_applied {r : List Byte} (hp : s.phase = .cipher)
    (hr : scApply c s.key s.nonce 1#64 (dataOperand c s) = some r) :
    execOn c .encrypt s = .next (goTo .mac (applied c r s)) := by
  rw [execOn_encrypt_cipher hp, cipher_of_scApply _ _ hr, applied]

theorem execOn_decrypt_applied {r : List Byte} (hp : s.phase = .cipher)
    (hr : scApply c s.key s.nonce 1#64 (dataOperand c s) = some r) :
    execOn c .decrypt s = .next (decryptStaged (applied c r s)) := by
  rw [execOn_decrypt_cipher hp, cipher_of_scApply _ _ hr, applied]

/-! ### ENCRYPT up to its commit -/

/-- ENCRYPT about to commit: the ciphertext `r` and its tag staged. -/
def encrypted (c : Config) (r : List Byte) (s : State) : State :=
  encryptMac c (goTo .mac (applied c r (keyed c .encrypt .cipher s)))

/-- ENCRYPT from the CMD write to its commit. -/
theorem runOn_encrypt {r : List Byte} (hb : s.busy = false) (ha : aadLength s ≤ c.aadCap)
    (hd : dataLength s ≤ c.dataCap) (hr : scApply c s.key s.nonce 1#64 (dataOperand c s) = some r) :
    runOn c 6 (withCmdWrite c (encode .encrypt) s) = .next (commit (encrypted c r s)) := by
  have hkeyed := runsAlone_keyed c .encrypt .cipher s
  have hmac := (hkeyed.of_applied (c := c) r).of_goTo .mac
  have hdone : RunsAlone .encrypt (encrypted c r s) := ⟨hmac.script, hmac.word⟩
  have hrK := (scApply_of_sameInputs (sameInputs_keyed c .encrypt .cipher s)).trans hr
  calc runOn c 6 (withCmdWrite c (encode .encrypt) s)
    _ = runOn c 3 (keyed c .encrypt .cipher s) := runOn_keyed 3 (.inl ⟨rfl, rfl⟩) hb ha hd
    _ = runOn c 2 (goTo .mac (applied c r (keyed c .encrypt .cipher s))) :=
      hkeyed.turn (keyed_phase _ _ _ _) (by decide) (execOn_encrypt_applied (keyed_phase _ _ _ _) hrK) 2
    _ = runOn c 1 (encrypted c r s) :=
      hmac.turn (goTo_phase _ _) (by decide) (execOn_encrypt_mac (goTo_phase _ _)) 1
    _ = .next (commit (encrypted c r s)) := hdone.runOn_commit (goTo_phase _ _) 0

/-- An ENCRYPT that committed OK had lengths within the capacities and the stream limit. -/
theorem bounds_of_encrypt_ok {t : State} (hb : s.busy = false)
    (hrun : runOn c 6 (withCmdWrite c (encode .encrypt) s) = .next t) (hok : t.err = .ok) :
    aadLength s ≤ c.aadCap ∧ dataLength s ≤ c.dataCap ∧ s.dataLen.toNat ≤ 64 * c.scMaxCounter := by
  have hi : KeygenLeadsTo .encrypt .cipher := .inl ⟨rfl, rfl⟩
  have haccepted := runsAlone_accepted c .encrypt s
  have hkeyed := runsAlone_keyed c .encrypt .cipher s
  rcases checkLengths_cases c (goTo .keygen) (accepted c .encrypt s) with ⟨-, hc⟩ | ⟨-, -, hc⟩ | ⟨ha, hd, -⟩
  · rw [runOn_check 4 hi hb, hc] at hrun
    exact absurd ((haccepted.err_of_fail hrun).symm.trans hok) (by decide)
  · rw [runOn_check 4 hi hb, hc] at hrun
    exact absurd ((haccepted.err_of_fail hrun).symm.trans hok) (by decide)
  · refine ⟨ha, hd, le_of_not_gt fun hlong => ?_⟩
    rw [runOn_keyed 3 hi hb ha hd, hkeyed.turn (keyed_phase _ _ _ _) (by decide)
      (execOn_encrypt_cipher (keyed_phase _ _ _ _)), cipher_of_lt (s := keyed c .encrypt .cipher s) _ _ hlong] at hrun
    have hlogged (e : Event) : RunsAlone .encrypt (logEvent e (keyed c .encrypt .cipher s)) :=
      ⟨hkeyed.script, hkeyed.word⟩
    exact absurd (((hlogged _).err_of_fail hrun).symm.trans hok) (by decide)

/-! ### DECRYPT with the right tag up to its commit -/

/-- The tag of the ciphertext `ct` under the operands of `s` (42_encrypt.md R192). -/
def tagOver (c : Config) (s : State) (ct : List Byte) : Tag :=
  c.maCompute (padMessage (aadOperand c s) ct) (macKeyOf c s)

theorem macTag_of_sameInputs {u : State} (h : SameInputs s u) (hk : u.mackey = macKeyOf c s) (ct : List Byte) :
    macTag c ct u = tagOver c s ct := by
  rw [macTag, macMessage, aadOperand_of_sameInputs h, hk, tagOver]

/-- DECRYPT once COMPARE has found the tags equal. -/
def verified (c : Config) (s : State) : State := goTo .cipher (decryptMac c (keyed c .decrypt .mac s))

theorem sameInputs_verified (c : Config) (s : State) : SameInputs s (verified c s) :=
  (sameInputs_keyed c .decrypt .mac s).trans (by simp [SameInputs, verified, decryptMac, macLogged])

/-- DECRYPT about to commit: the plaintext `r` staged. -/
def decrypted (c : Config) (r : List Byte) (s : State) : State := decryptStaged (applied c r (verified c s))

/-- In COMPARE the expected tag is the one over the operands. -/
theorem expTag_decryptMac_keyed :
    (decryptMac c (keyed c .decrypt .mac s)).expTag = tagOver c s (dataOperand c s) := by
  have hin := sameInputs_keyed c .decrypt .mac s
  rw [decryptMac, goTo_expTag, setExpTag_expTag, macTag_of_sameInputs hin (keyed_mackey _ _ _ _),
    dataOperand_of_sameInputs hin]

/-- DECRYPT with the right tag, from the CMD write to its commit. -/
theorem runOn_decrypt {r : List Byte} (hb : s.busy = false) (ha : aadLength s ≤ c.aadCap)
    (hd : dataLength s ≤ c.dataCap) (htag : s.tagIn = tagOver c s (dataOperand c s))
    (hr : scApply c s.key s.nonce 1#64 (dataOperand c s) = some r) :
    runOn c 7 (withCmdWrite c (encode .decrypt) s) = .next (commit (decrypted c r s)) := by
  have hkeyed := runsAlone_keyed c .decrypt .mac s
  have hcompare : RunsAlone .decrypt (decryptMac c (keyed c .decrypt .mac s)) := ⟨hkeyed.script, hkeyed.word⟩
  have hverified : RunsAlone .decrypt (verified c s) := hcompare.of_goTo .cipher
  have happlied := hverified.of_applied (c := c) r
  have hdone : RunsAlone .decrypt (decrypted c r s) := ⟨happlied.script, happlied.word⟩
  obtain ⟨⟨-, -, hin, -⟩, -⟩ := sameInputs_verified c s
  have hrV := (scApply_of_sameInputs (sameInputs_verified c s)).trans hr
  calc runOn c 7 (withCmdWrite c (encode .decrypt) s)
    _ = runOn c 4 (keyed c .decrypt .mac s) := runOn_keyed 4 (.inr ⟨rfl, rfl⟩) hb ha hd
    _ = runOn c 3 (decryptMac c (keyed c .decrypt .mac s)) :=
      hkeyed.turn (keyed_phase _ _ _ _) (by decide) (execOn_decrypt_mac (keyed_phase _ _ _ _)) 3
    _ = runOn c 2 (verified c s) := by
      rw [hcompare.turn (goTo_phase _ _) (by decide) (execOn_decrypt_compare (goTo_phase _ _)),
        compareTags_of_eq (expTag_decryptMac_keyed.trans (htag.symm.trans hin.symm)), verified]
    _ = runOn c 1 (decrypted c r s) :=
      hverified.turn (goTo_phase _ _) (by decide) (execOn_decrypt_applied (goTo_phase _ _) hrV) 1
    _ = .next (commit (decrypted c r s)) := hdone.runOn_commit (goTo_phase _ _) 0

/-! ### What the two commands commit -/

/-- The bytes the apply port returned for the operands of `s`, once staged. -/
theorem stageByte_applied {r : List Byte} (hr : scApply c s.key s.nonce 1#64 (dataOperand c s) = some r) (u : State)
    {a : Nat} (ha : a < s.dataLen.toNat) : stageByte (applied c r u) a = inByte c s a ^^^ streamByte c s a :=
  (stageByte_putStage_scApply hr _ a).trans (if_pos ha)

/-- A successful commit makes the staged bytes visible, whatever the phase after CIPHER added to them. -/
theorem outByte_commit_applied {r : List Byte} (hr : scApply c s.key s.nonce 1#64 (dataOperand c s) = some r)
    {u v : State} (hok : v.result.1 = .ok) (hstage : v.stage = (applied c r u).stage) (hlen : v.stageLen = r.length)
    {a : Nat} (ha : a < s.dataLen.toNat) : outByte (commit v) a = inByte c s a ^^^ streamByte c s a := by
  rw [outByte_commit_of_ok hok (by rwa [hlen, length_scApply_dataOperand hr]), stageByte, hstage]
  exact stageByte_applied hr u ha

theorem encryptMac_stageTag (c : Config) (s : State) :
    (encryptMac c s).stageTag = macTag c (stageBytes s (dataLength s)) s := rfl

theorem encrypted_fields (c : Config) (r : List Byte) (s : State) : (encrypted c r s).result = (.ok, .none)
    ∧ (encrypted c r s).stage = (applied c r (keyed c .encrypt .cipher s)).stage
    ∧ (encrypted c r s).stageLen = r.length := by
  simp [encrypted, encryptMac, macLogged, applied]

theorem decrypted_fields (c : Config) (r : List Byte) (s : State) : (decrypted c r s).result = (.ok, .none)
    ∧ (decrypted c r s).stage = (applied c r (verified c s)).stage ∧ (decrypted c r s).stageLen = r.length := by
  simp [decrypted, decryptStaged, verified, decryptMac, macLogged, applied]

theorem outByte_encrypted {r : List Byte} (hr : scApply c s.key s.nonce 1#64 (dataOperand c s) = some r) {a : Nat}
    (ha : a < s.dataLen.toNat) : outByte (commit (encrypted c r s)) a = inByte c s a ^^^ streamByte c s a := by
  obtain ⟨hresult, hstage, hlen⟩ := encrypted_fields c r s
  exact outByte_commit_applied hr (by rw [hresult]) hstage hlen ha

/-- ENCRYPT signs the ciphertext it commits. -/
theorem tagOut_encrypted {r : List Byte} (hr : scApply c s.key s.nonce 1#64 (dataOperand c s) = some r) :
    (commit (encrypted c r s)).tagOut =
      tagOver c s ((List.range s.dataLen.toNat).map (outByte (commit (encrypted c r s)))) := by
  obtain ⟨hresult, -, -⟩ := encrypted_fields c r s
  have hin : SameInputs s (goTo .mac (applied c r (keyed c .encrypt .cipher s))) :=
    (sameInputs_keyed c .encrypt .cipher s).trans (by simp [SameInputs, applied])
  have hkey : (goTo .mac (applied c r (keyed c .encrypt .cipher s))).mackey = macKeyOf c s := by simp [applied]
  obtain ⟨⟨-, -, -, -, hlen⟩, -⟩ := id hin
  have hbyte (a : Nat) (ha : a ∈ List.range s.dataLen.toNat) :
      stageByte (goTo .mac (applied c r (keyed c .encrypt .cipher s))) a = outByte (commit (encrypted c r s)) a :=
    (stageByte_applied hr _ (List.mem_range.1 ha)).trans (outByte_encrypted hr (List.mem_range.1 ha)).symm
  rw [commit_tagOut_of_ok (by rw [hresult]), encrypted, encryptMac_stageTag,
    macTag_of_sameInputs hin hkey, dataLength, hlen, stageBytes_eq, List.map_congr_left hbyte, encrypted]

theorem outByte_decrypted {r : List Byte} (hr : scApply c s.key s.nonce 1#64 (dataOperand c s) = some r) {a : Nat}
    (ha : a < s.dataLen.toNat) : outByte (commit (decrypted c r s)) a = inByte c s a ^^^ streamByte c s a := by
  obtain ⟨hresult, hstage, hlen⟩ := decrypted_fields c r s
  exact outByte_commit_applied hr (by rw [hresult]) hstage hlen ha

theorem outLen_decrypted {r : List Byte} (hr : scApply c s.key s.nonce 1#64 (dataOperand c s) = some r) :
    (commit (decrypted c r s)).outLen = s.dataLen := by
  obtain ⟨hresult, -, hlen⟩ := decrypted_fields c r s
  rw [commit_outLen_of_ok (by rw [hresult]), hlen, length_scApply_dataOperand hr, BitVec.ofNat_toNat,
    BitVec.setWidth_eq]

/-! ### Decryption after encryption -/

theorem Inv.not_busy (h : Inv c s) (hp : s.phase = .idle) : s.busy = false :=
  Bool.eq_false_iff.2 fun hb => h.flags.busyIffRunning.1 hb hp

/-- The tag depends on the key, the nonce and the AAD alone. -/
theorem tagOver_congr {u : State} (hkey : u.key = s.key) (hnonce : u.nonce = s.nonce) (hlen : u.aadLen = s.aadLen)
    (haad : ∀ a, a < s.aadLen.toNat → aadByte c u a = aadByte c s a) (ct : List Byte) :
    tagOver c u ct = tagOver c s ct := by
  have hop : aadOperand c u = aadOperand c s := by
    rw [aadOperand_eq, aadOperand_eq, hlen]
    exact List.map_congr_left fun a ha => haad a (List.mem_range.1 ha)
  rw [tagOver, tagOver, macKeyOf, macKeyOf, hop, hkey, hnonce]

theorem streamByte_congr {u : State} (hkey : u.key = s.key) (hnonce : u.nonce = s.nonce) (a : Nat) :
    streamByte c u a = streamByte c s a := by
  rw [streamByte, streamByte, hkey, hnonce]

end

/-- Settles O46: the committed tag is the one DECRYPT expects over the committed ciphertext, and combining with the same
keystream twice gives the message back. -/
theorem decryptUndoesEncrypt : Obligations.DecryptUndoesEncrypt := by
  intro c s t u _ hinv hidle hrun _ hok hinvU hidleU hkey hnonce haadLen hdataLen haad hin htag
  have hb := hinv.not_busy hidle
  obtain ⟨ha, hd, hfits⟩ := bounds_of_encrypt_ok hb hrun hok
  obtain ⟨r, hr⟩ := exists_scApply_of_le hfits
  obtain rfl : commit (encrypted c r s) = t := Host.Outcome.next.inj ((runOn_encrypt hb ha hd hr).symm.trans hrun)
  have hct : dataOperand c u = (List.range s.dataLen.toNat).map (outByte (commit (encrypted c r s))) := by
    rw [dataOperand_eq, hdataLen]
    exact List.map_congr_left fun a h => hin a (List.mem_range.1 h)
  have htagU : u.tagIn = tagOver c u (dataOperand c u) := by
    rw [htag, tagOut_encrypted hr, tagOver_congr hkey hnonce haadLen haad, hct]
  rw [← hdataLen] at hfits
  obtain ⟨m, hm⟩ := exists_scApply_of_le hfits
  have haU : aadLength u ≤ c.aadCap := by rwa [aadLength, haadLen]
  have hdU : dataLength u ≤ c.dataCap := by rwa [dataLength, hdataLen]
  refine ⟨commit (decrypted c m u), runOn_decrypt (hinvU.not_busy hidleU) haU hdU htagU hm,
    committedWith_commit (decrypted c m u), (outLen_decrypted hm).trans hdataLen, fun a h => ?_⟩
  calc outByte (commit (decrypted c m u)) a
    _ = inByte c u a ^^^ streamByte c u a := outByte_decrypted hm (hdataLen ▸ h)
    _ = inByte c s a ^^^ streamByte c s a ^^^ streamByte c s a := by
      rw [hin a h, outByte_encrypted hr h, streamByte_congr hkey hnonce]
    _ = inByte c s a := by rw [BitVec.xor_assoc, BitVec.xor_self, BitVec.xor_zero]

end Sys2Proof.Machine

/-! The statement of 44_tag_comparator.md (R230): what the comparator accepts, and that the order in which the 16 byte
differences are combined does not enter its result. -/

namespace Sys2Proof.Machine

/-- OR of bytes is associative and commutative, so a list may be combined in any order. -/
theorem foldl_or_eq_of_perm (f : Nat → Byte) {l₁ l₂ : List Nat} (h : l₁.Perm l₂) (a : Byte) :
    l₁.foldl (fun acc i => acc ||| f i) a = l₂.foldl (fun acc i => acc ||| f i) a :=
  h.foldl_eq' (fun i _ j _ acc => by rw [BitVec.or_assoc, BitVec.or_comm (f i), ← BitVec.or_assoc]) a

theorem tagDifference_eq_of_perm (x y : Tag) {order : List Nat} (h : order.Perm (List.range 16)) :
    tagDifference x y = order.foldl (fun acc i => acc ||| (byteAt x i ^^^ byteAt y i)) 0#8 :=
  (foldl_or_eq_of_perm _ h 0#8).symm

theorem ctEq16_iff_byteAt (x y : Tag) : ctEq16 x y = true ↔ ∀ i, i < 16 → byteAt x i = byteAt y i := by
  rw [ctEq16, beq_iff_eq, tagDifference_eq_zero]

/-- Settles O57: all 16 bytes of the tags enter the result, and the OR of their differences is the same in every order. -/
theorem comparatorAcceptsEqualTagsOnly : Obligations.ComparatorAcceptsEqualTagsOnly := fun x y =>
  ⟨ctEq16_iff_byteAt x y, ctEq16_iff x y, fun _ h => congrArg (· == 0#8) (tagDifference_eq_of_perm x y h)⟩

end Sys2Proof.Machine

/-! The statement of 45_collaborators.md (R242 to R244): when the apply port fails, what it returns, and that the same
call undoes it. -/

namespace Sys2Proof.Machine

section
variable {c : Config} {k : Key} {n : Nonce} {c0 : DWord}

theorem applyFails_iff {len : Nat} :
    applyFails c c0 len = true ↔ 0 < len ∧ c.scMaxCounter < c0.toNat + (len + 63) / 64 - 1 := by
  rw [applyFails, Bool.and_eq_true, decide_eq_true_eq, decide_eq_true_eq, blocksFor]

/-- Empty data takes no block, so no counter is too large for it (45_collaborators.md R244). -/
theorem scApply_nil : scApply c k n c0 [] = some [] := rfl

/-- The failure sees the data's length only, never its bytes (45_collaborators.md R243). -/
theorem scApply_eq_none_congr {d r : List Byte} (h : r.length = d.length) :
    scApply c k n c0 r = none ↔ scApply c k n c0 d = none := by
  rw [scApply_eq_none, scApply_eq_none, h]

/-- Combining with the same keystream twice gives the data back (45_collaborators.md R242). -/
theorem scApply_scApply {d r : List Byte} (hr : scApply c k n c0 d = some r) : scApply c k n c0 r = some d := by
  have hne : scApply c k n c0 r ≠ none := fun hnone => by
    rw [scApply_eq_none_congr (length_scApply hr), hr] at hnone
    cases hnone
  obtain ⟨m, hm⟩ := Option.ne_none_iff_exists'.1 hne
  have hlen : m.length = d.length := (length_scApply hm).trans (length_scApply hr)
  have hmd : m = d := List.ext_getElem hlen fun i _ hi => (List.getElem_eq_iff _).2 <| by
    rw [getElem?_scApply hm (getElem?_scApply hr (List.getElem?_eq_getElem hi)), BitVec.xor_assoc, BitVec.xor_self,
      BitVec.xor_zero]
  rw [hm, hmd]

end

/-- Settles O60: the failure is a comparison of the length and the counter, and each byte is combined with a keystream
byte that depends on its position alone, so a second call cancels the first. -/
theorem applyPortContract : Obligations.ApplyPortContract := fun _ _ _ _ _ =>
  ⟨scApply_eq_none.trans applyFails_iff, scApply_one_eq_none_iff, scApply_nil,
    fun _ hr => ⟨length_scApply hr, scApply_scApply hr, fun _ _ hx => getElem?_scApply hr hx⟩⟩

end Sys2Proof.Machine

/-! The statement of 60_exceptions.md (R272): what the commit of a failed command leaves. -/

namespace Sys2Proof.Machine

section
variable {c : Config} {s : State}

theorem Inv.busy (h : Inv c s) (hp : s.phase ≠ .idle) : s.busy = true := h.flags.busyIffRunning.2 hp

theorem outByte_of_outputsZero (h : outputsZero s) (a : Nat) : outByte s a = 0#8 := by
  obtain ⟨hmem, -, -⟩ := h
  rw [outByte, hmem]
  rfl

/-- A failed commit publishes nothing, so outputs that are zero stay zero. -/
theorem outputsZero_commit_of_failed (hfail : s.result.1 ≠ .ok) (h : outputsZero s) : outputsZero (commit s) := by
  rw [commit_failed hfail]
  exact h

end

/-- Settles O45: the block is busy at COMMIT, so by the invariant its outputs are zero and LAST_OPC is the word's, and
the commit of a failure keeps both. -/
theorem failedCommitLeavesZeroOutputs : Obligations.FailedCommitLeavesZeroOutputs := by
  intro s hinv hp hfail hscript
  have hbusy : s.busy = true := hinv.busy (by simp [hp])
  have hzero : outputsZero (commit s) := outputsZero_commit_of_failed hfail (hinv.hidden.busyNoOutput hbusy)
  have hdone := committedWith_commit s
  rw [hinv.flags.lastOpcode hbusy] at hdone
  refine ⟨commit s, ?_, hdone, hzero, outByte_of_outputsZero hzero, sameInputs_commit⟩
  rw [step, stepWith_nil hscript, sequencerTurn_commit hp]

end Sys2Proof.Machine

/-! The step lemma of the invariant (10_state.md sections 3 to 6). First the frame of a running command and the part of
the invariant inside that frame, phase by phase; then the commit, the host's accesses and the resets. -/

namespace Sys2Proof.Machine

section
variable {c : Config} {s t : State}

/-! ### The frame of a running command -/

/-- `t` is `s` but for the phase, the result, the hidden state and the log: all that the phases between accept and
commit may touch (10_state.md R61 to R67). -/
def WorkStep (s t : State) : Prop :=
  t = { s with
    phase := t.phase, result := t.result, mackey := t.mackey, expTag := t.expTag
    stage := t.stage, stageLen := t.stageLen, stageTag := t.stageTag, log := t.log }

theorem workStep_checkLengths {ok : State → State} (hok : WorkStep s (ok s)) : WorkStep s (checkLengths c ok s) := by
  rcases checkLengths_cases c ok s with ⟨-, h⟩ | ⟨-, -, h⟩ | ⟨-, -, h⟩ <;> rw [h]
  · rfl
  · rfl
  · exact hok

theorem workStep_checkPadLength : WorkStep s (checkPadLength c s) := by
  rcases checkPadLength_cases c s with ⟨-, h⟩ | ⟨-, h⟩ <;> rw [h] <;> rfl

theorem workStep_compareTags : WorkStep s (compareTags s) := by
  rcases compareTags_cases s with ⟨-, h⟩ | ⟨-, h⟩ <;> rw [h] <;> rfl

theorem workStep_cipher {e : Err} {next : State → State}
    (hnext : ∀ r ev, WorkStep s (next (putStage r (logEvent ev s)))) : WorkStep s (cipher c e next s) := by
  rcases cipher_cases c e next s with ⟨-, h⟩ | ⟨r, -, h⟩ <;> rw [h]
  · rfl
  · exact hnext r _

theorem workStep_decryptStaged (bs : List Byte) (e : Event) :
    WorkStep s (decryptStaged (putStage bs (logEvent e s))) := by
  rw [WorkStep, decryptStaged]
  dsimp only [goTo, setStageTag, putStage, logEvent]

/-- Between accept and commit a command stays within its frame. -/
theorem workStep_execOn {i : Instr} (h : execOn c i s = .next t) (hi : s.phase ≠ .idle) (hc : s.phase ≠ .commit) :
    WorkStep s t := by
  rcases execOn_next h with ⟨hp, -⟩ | ⟨-, -, rfl⟩ | ⟨-, -, rfl⟩ | ⟨-, -, rfl⟩ | ⟨-, -, rfl⟩ | ⟨-, -, rfl⟩ | ⟨-, -, rfl⟩
    | ⟨-, -, rfl⟩ | ⟨-, -, rfl⟩ | ⟨-, -, rfl⟩ | ⟨-, -, rfl⟩ | ⟨-, -, rfl⟩ | ⟨-, -, rfl⟩ | ⟨hp, -⟩
  · exact absurd hp hi
  · exact workStep_checkLengths rfl
  · exact workStep_checkLengths workStep_checkPadLength
  · rfl
  · rfl
  · rfl
  · rfl
  · exact workStep_cipher fun _ _ => rfl
  · exact workStep_cipher workStep_decryptStaged
  · rfl
  · rfl
  · exact workStep_compareTags
  · rfl
  · exact absurd hp hc

/-! ### The invariant inside the frame -/

/-- The clauses of the invariant about the fields that `WorkStep` leaves free, for a block that runs a command. -/
structure WorkInv (c : Config) (s : State) : Prop where
  resultFits : causeFits s.result.1 s.result.2 = true
  resultOpen : s.phase ≠ .commit → s.result = (.ok, .none)
  stageWf : Memory.wf zeroUnlisted s.stage = true ∧ Memory.below s.stageLen s.stage = true
  stageFits : s.stageLen ≤ c.outCap
  running : s.phase ≠ .idle
  reached : reaches (decode s.cmdw) s.phase = true
  lengthsBounded : s.phase = .cipher ∨ s.phase = .mac ∨ s.phase = .compare ∨ s.phase = .padout
      ∨ (s.phase = .keygen ∧ decode s.cmdw ≠ .command .deriveKey) →
    aadLength s ≤ c.aadCap ∧ dataLength s ≤ c.dataCap
  padBounded : s.phase = .padout → padLength s ≤ c.outCap
  keyUnset : s.phase = .check ∨ s.phase = .keygen ∨ s.phase = .padout → s.mackey = 0#256 ∧ s.expTag = 0#128
  unstaged : s.phase ≠ .mac → s.phase ≠ .commit → nothingStaged s
  macStaged : s.phase = .mac → s.stageTag = 0#128
    ∧ (decode s.cmdw = .command .encrypt → s.stageLen = dataLength s)
    ∧ (decode s.cmdw = .command .decrypt → nothingStaged s)
  failUnstaged : s.result.1 ≠ .ok → nothingStaged s
  tagStaged : s.stageTag ≠ 0#128 → decode s.cmdw = .command .encrypt

/-- Outside its frame a running block does not change, so the invariant is kept where its clauses inside are. -/
theorem Inv.of_workStep (h : Inv c s) (hp : s.phase ≠ .idle) (hf : WorkStep s t) (hw : WorkInv c t) : Inv c t := by
  have hb : s.busy = true := h.busy hp
  obtain ⟨p, r, k, x, m, l, g, lg, rfl⟩ : ∃ p r k x m l g lg, t = { s with
      phase := p, result := r, mackey := k, expTag := x, stage := m, stageLen := l, stageTag := g, log := lg } :=
    ⟨_, _, _, _, _, _, _, _, hf⟩
  exact {
    flags := ⟨⟨fun _ => hw.running, fun _ => hb⟩, h.flags.clearWhileBusy, h.flags.causeFitsErr, hw.resultFits,
      hw.resultOpen, h.flags.lastOpcode⟩
    buffers := ⟨h.buffers.aadWf, h.buffers.inWf, h.buffers.outWf, hw.stageWf, h.buffers.outFits, hw.stageFits⟩
    command := ⟨.inr hw.reached, hw.lengthsBounded, hw.padBounded⟩
    hidden := ⟨fun hi => absurd hi hw.running, hw.keyUnset, hw.unstaged, hw.macStaged, hw.failUnstaged, hw.tagStaged,
      h.hidden.busyNoOutput, h.hidden.failNoOutput, h.hidden.tagOutput⟩ }

theorem stageWf_of_nothingStaged (h : nothingStaged s) :
    Memory.wf zeroUnlisted s.stage = true ∧ Memory.below s.stageLen s.stage = true := by
  obtain ⟨hstage, -, -⟩ := h
  rw [hstage]
  exact ⟨rfl, rfl⟩

/-- Bytes staged where nothing stood. -/
theorem stageWf_writeBytes {bs : List Byte} (h : s.stage = []) :
    Memory.wf zeroUnlisted (Memory.writeBytes zeroUnlisted s.stage 0 bs) = true
      ∧ Memory.below bs.length (Memory.writeBytes zeroUnlisted s.stage 0 bs) = true := by
  rw [h]
  exact ⟨Memory.wf_writeBytes rfl 0 bs, Memory.below_writeBytes rfl (by omega)⟩

/-- COMMIT asks only that what is staged is in order. -/
theorem workInv_commit (hp : s.phase = .commit) (hfit : causeFits s.result.1 s.result.2 = true)
    (hwf : Memory.wf zeroUnlisted s.stage = true ∧ Memory.below s.stageLen s.stage = true)
    (hlen : s.stageLen ≤ c.outCap) (hfail : s.result.1 ≠ .ok → nothingStaged s)
    (htag : s.stageTag ≠ 0#128 → decode s.cmdw = .command .encrypt) : WorkInv c s where
  resultFits := hfit
  resultOpen := fun hne => absurd hp hne
  stageWf := hwf
  stageFits := hlen
  running := by simp [hp]
  reached := by rw [hp]; cases decode s.cmdw <;> rfl
  lengthsBounded := by simp [hp]
  padBounded := by simp [hp]
  keyUnset := by simp [hp]
  unstaged := fun _ hne => absurd hp hne
  macStaged := by simp [hp]
  failUnstaged := hfail
  tagStaged := htag

theorem workInv_fail {e : Err} {cause : Cause} (hfit : causeFits e cause = true) (hn : nothingStaged s) :
    WorkInv c (fail e cause s) := by
  obtain ⟨-, hlen, htag⟩ := id hn
  exact workInv_commit rfl hfit (stageWf_of_nothingStaged hn) (hlen.trans_le (Nat.zero_le _)) (fun _ => hn)
    (fun hne => absurd htag hne)

/-- A phase before anything is staged. -/
theorem workInv_unstaged (hi : s.phase ≠ .idle) (hm : s.phase ≠ .mac)
    (hres : s.result = (.ok, .none)) (hn : nothingStaged s) (hreach : reaches (decode s.cmdw) s.phase = true)
    (hbound : s.phase ≠ .check → (s.phase = .keygen → decode s.cmdw ≠ .command .deriveKey) →
      aadLength s ≤ c.aadCap ∧ dataLength s ≤ c.dataCap)
    (hpad : s.phase = .padout → padLength s ≤ c.outCap)
    (hkey : s.phase = .check ∨ s.phase = .keygen ∨ s.phase = .padout → s.mackey = 0#256 ∧ s.expTag = 0#128) :
    WorkInv c s := by
  obtain ⟨-, hlen, htag⟩ := id hn
  exact {
    resultFits := by rw [hres]; rfl
    resultOpen := fun _ => hres
    stageWf := stageWf_of_nothingStaged hn
    stageFits := hlen.trans_le (Nat.zero_le _)
    running := hi
    reached := hreach
    lengthsBounded := fun h => hbound (by rintro hp; simp [hp] at h) (by rintro hp; simpa [hp] using h)
    padBounded := hpad
    keyUnset := hkey
    unstaged := fun _ _ => hn
    macStaged := fun hp => absurd hp hm
    failUnstaged := fun _ => hn
    tagStaged := fun hne => absurd htag hne }

/-- MAC: ENCRYPT has its ciphertext staged, DECRYPT nothing. -/
theorem workInv_mac (hp : s.phase = .mac) (hres : s.result = (.ok, .none))
    (hwf : Memory.wf zeroUnlisted s.stage = true ∧ Memory.below s.stageLen s.stage = true)
    (hbound : aadLength s ≤ c.aadCap ∧ dataLength s ≤ c.dataCap) (hlen : s.stageLen ≤ c.outCap)
    (htag : s.stageTag = 0#128)
    (hcmd : (decode s.cmdw = .command .encrypt ∧ s.stageLen = dataLength s)
      ∨ (decode s.cmdw = .command .decrypt ∧ nothingStaged s)) : WorkInv c s where
  resultFits := by rw [hres]; rfl
  resultOpen := fun _ => hres
  stageWf := hwf
  stageFits := hlen
  running := by simp [hp]
  reached := by rcases hcmd with ⟨hd, -⟩ | ⟨hd, -⟩ <;> rw [hd, hp] <;> rfl
  lengthsBounded := fun _ => hbound
  padBounded := by simp [hp]
  keyUnset := by simp [hp]
  unstaged := fun hne => absurd hp hne
  macStaged := fun _ => by
    rcases hcmd with ⟨hd, hl⟩ | ⟨hd, hn⟩
    · exact ⟨htag, fun _ => hl, by simp [hd]⟩
    · exact ⟨htag, by simp [hd], fun _ => hn⟩
  failUnstaged := by simp [hres]
  tagStaged := fun hne => absurd htag hne

/-! ### The phases keep it -/

theorem Inv.result_open (h : Inv c s) (hc : s.phase ≠ .commit) : s.result = (.ok, .none) := h.flags.resultOpen hc

theorem dataLength_le_outCap (hc : c.wellFormed = true) (h : dataLength s ≤ c.dataCap) :
    dataLength s ≤ c.outCap := by
  obtain ⟨-, -, ⟨-, hcap, -⟩, -⟩ := (Config.wellFormed_iff c).1 hc
  exact h.trans ((le_max_left _ _).trans hcap)

/-- CHECK of ENCRYPT and DECRYPT. -/
theorem workInv_checkLengths_keygen (h : Inv c s) (hp : s.phase = .check)
    (hreach : reaches (decode s.cmdw) .keygen = true) : WorkInv c (checkLengths c (goTo .keygen) s) := by
  have hn : nothingStaged s := h.hidden.unstaged (by simp [hp]) (by simp [hp])
  rcases checkLengths_cases c (goTo .keygen) s with ⟨-, hc⟩ | ⟨-, -, hc⟩ | ⟨ha, hd, hc⟩ <;> rw [hc]
  · exact workInv_fail rfl hn
  · exact workInv_fail rfl hn
  · exact workInv_unstaged (by simp) (by simp) (h.result_open (by simp [hp])) hn hreach (fun _ _ => ⟨ha, hd⟩) (by simp)
      (fun _ => h.hidden.keyUnset (.inl hp))

/-- CHECK of PAD. -/
theorem workInv_checkLengths_pad (h : Inv c s) (hp : s.phase = .check) (hd : decode s.cmdw = .command .pad) :
    WorkInv c (checkLengths c (checkPadLength c) s) := by
  have hn : nothingStaged s := h.hidden.unstaged (by simp [hp]) (by simp [hp])
  rcases checkLengths_cases c (checkPadLength c) s with ⟨-, hc⟩ | ⟨-, -, hc⟩ | ⟨ha, hl, hc⟩ <;> rw [hc]
  · exact workInv_fail rfl hn
  · exact workInv_fail rfl hn
  · rcases checkPadLength_cases c s with ⟨-, hc'⟩ | ⟨hpad, hc'⟩ <;> rw [hc']
    · exact workInv_fail rfl hn
    · exact workInv_unstaged (by simp) (by simp) (h.result_open (by simp [hp])) hn (by simp [hd, reaches])
        (fun _ _ => ⟨ha, hl⟩) (fun _ => hpad) (fun _ => h.hidden.keyUnset (.inl hp))

/-- CHECK of DERIVE_KEY, which looks at no length. -/
theorem workInv_goTo_keygen (h : Inv c s) (hp : s.phase = .check) (hd : decode s.cmdw = .command .deriveKey) :
    WorkInv c (goTo .keygen s) :=
  workInv_unstaged (by simp) (by simp) (h.result_open (by simp [hp])) (h.hidden.unstaged (by simp [hp]) (by simp [hp]))
    (by simp [hd, reaches]) (fun _ hne => absurd hd (hne rfl)) (by simp) (fun _ => h.hidden.keyUnset (.inl hp))

/-- KEYGEN of ENCRYPT and DECRYPT. -/
theorem workInv_keygen {i : Instr} {p : Phase} (h : Inv c s) (hp : s.phase = .keygen)
    (hd : decode s.cmdw = .command i) (hi : KeygenLeadsTo i p) : WorkInv c (goTo p (keygen c s)) := by
  have hn : nothingStaged s := h.hidden.unstaged (by simp [hp]) (by simp [hp])
  have hres := h.result_open (by simp [hp])
  have hbound := h.command.lengthsBounded
    (.inr (.inr (.inr (.inr ⟨hp, by rcases hi with ⟨rfl, -⟩ | ⟨rfl, -⟩ <;> simp [hd]⟩))))
  obtain ⟨-, hlen, htag⟩ := id hn
  rcases hi with ⟨rfl, rfl⟩ | ⟨rfl, rfl⟩
  · exact workInv_unstaged (by simp) (by simp) hres hn (by simp [hd, reaches]) (fun _ _ => hbound) (by simp) (by simp)
  · exact workInv_mac rfl hres (stageWf_of_nothingStaged hn) hbound (hlen.trans_le (Nat.zero_le _)) htag
      (.inr ⟨hd, hn⟩)

/-- KEYGEN of DERIVE_KEY: 32 bytes fit every OUT_MEM (00_scope.md R8). -/
theorem workInv_deriveKeyStaged (hc : c.wellFormed = true) (h : Inv c s) (hp : s.phase = .keygen) :
    WorkInv c (deriveKeyStaged (keygen c s)) := by
  obtain ⟨hstage, -, -⟩ := h.hidden.unstaged (by simp [hp]) (by simp [hp])
  have hres := h.result_open (by simp [hp])
  obtain ⟨-, -, ⟨-, hcap, -⟩, -⟩ := (Config.wellFormed_iff c).1 hc
  exact workInv_commit rfl h.flags.resultFits (stageWf_writeBytes hstage)
    ((length_bytesOf _ 32).trans_le ((le_max_right _ _).trans hcap)) (fun hne => absurd (congrArg Prod.fst hres) hne)
    (by simp [deriveKeyStaged])

/-- CIPHER of ENCRYPT. -/
theorem workInv_cipher_encrypt (hc : c.wellFormed = true) (h : Inv c s) (hp : s.phase = .cipher)
    (hd : decode s.cmdw = .command .encrypt) : WorkInv c (cipher c .encryptionFailure (goTo .mac) s) := by
  have hn : nothingStaged s := h.hidden.unstaged (by simp [hp]) (by simp [hp])
  have hbound := h.command.lengthsBounded (.inl hp)
  obtain ⟨hstage, -, htag⟩ := id hn
  rcases cipher_cases c .encryptionFailure (goTo .mac) s with ⟨-, hcase⟩ | ⟨r, hr, hcase⟩ <;> rw [hcase]
  · exact workInv_fail rfl hn
  · have hlen := length_scApply_dataOperand hr
    exact workInv_mac rfl (h.result_open (by simp [hp])) (stageWf_writeBytes hstage) hbound
      (hlen.trans_le (dataLength_le_outCap hc hbound.2)) htag (.inl ⟨hd, hlen⟩)

/-- CIPHER of DECRYPT. -/
theorem workInv_cipher_decrypt (hc : c.wellFormed = true) (h : Inv c s) (hp : s.phase = .cipher) :
    WorkInv c (cipher c .decryptionFailure decryptStaged s) := by
  have hn : nothingStaged s := h.hidden.unstaged (by simp [hp]) (by simp [hp])
  have hres := h.result_open (by simp [hp])
  have hbound := h.command.lengthsBounded (.inl hp)
  obtain ⟨hstage, -, -⟩ := id hn
  rcases cipher_cases c .decryptionFailure decryptStaged s with ⟨-, hcase⟩ | ⟨r, hr, hcase⟩ <;> rw [hcase]
  · exact workInv_fail rfl hn
  · exact workInv_commit rfl h.flags.resultFits (stageWf_writeBytes hstage)
      ((length_scApply_dataOperand hr).trans_le (dataLength_le_outCap hc hbound.2))
      (fun hne => absurd (congrArg Prod.fst hres) hne) (by simp [decryptStaged])

/-- MAC of ENCRYPT. -/
theorem workInv_encryptMac (h : Inv c s) (hp : s.phase = .mac) (hd : decode s.cmdw = .command .encrypt) :
    WorkInv c (encryptMac c s) :=
  workInv_commit rfl h.flags.resultFits h.buffers.stageWf h.buffers.stageFits
    (fun hne => absurd (congrArg Prod.fst (h.result_open (by simp [hp]))) hne) (fun _ => hd)

/-- MAC of DECRYPT. -/
theorem workInv_decryptMac (h : Inv c s) (hp : s.phase = .mac) (hd : decode s.cmdw = .command .decrypt) :
    WorkInv c (decryptMac c s) := by
  obtain ⟨-, -, hn⟩ := h.hidden.macStaged hp
  exact workInv_unstaged (by simp [decryptMac]) (by simp [decryptMac]) (h.result_open (by simp [hp])) (hn hd)
    (by simp [decryptMac, macLogged, hd, reaches]) (fun _ _ => h.command.lengthsBounded (.inr (.inl hp)))
    (by simp [decryptMac]) (by simp [decryptMac])

/-- COMPARE. -/
theorem workInv_compareTags (h : Inv c s) (hp : s.phase = .compare) (hd : decode s.cmdw = .command .decrypt) :
    WorkInv c (compareTags s) := by
  have hn : nothingStaged s := h.hidden.unstaged (by simp [hp]) (by simp [hp])
  rcases compareTags_cases s with ⟨-, hcase⟩ | ⟨-, hcase⟩ <;> rw [hcase]
  · exact workInv_unstaged (by simp) (by simp) (h.result_open (by simp [hp])) hn (by simp [hd, reaches])
      (fun _ _ => h.command.lengthsBounded (.inr (.inr (.inl hp)))) (by simp) (by simp)
  · exact workInv_fail rfl hn

theorem length_padMessage_operands :
    (padMessage (aadOperand c s) (dataOperand c s)).length = padLength s := by
  rw [length_padMessage, length_dataOperand, aadOperand, Memory.length_readBytes]
  rfl

/-- PADOUT. -/
theorem workInv_padOut (h : Inv c s) (hp : s.phase = .padout) : WorkInv c (padOut c s) := by
  obtain ⟨hstage, -, -⟩ := h.hidden.unstaged (by simp [hp]) (by simp [hp])
  exact workInv_commit rfl h.flags.resultFits (stageWf_writeBytes hstage)
    (length_padMessage_operands.trans_le (h.command.padBounded hp))
    (fun hne => absurd (congrArg Prod.fst (h.result_open (by simp [hp]))) hne) (by simp [padOut])

/-- After a commit the hidden state is clear, so only the outputs and the code are left to look at. -/
theorem inv_settle {e : Err} {cause : Cause} (hfit : causeFits e cause = true)
    (haad : Memory.wf (aadUnlisted c s) s.aadMem = true ∧ Memory.below c.aadCap s.aadMem = true)
    (hin : Memory.wf (inUnlisted c s) s.inMem = true ∧ Memory.below c.dataCap s.inMem = true)
    (hout : Memory.wf zeroUnlisted s.outMem = true ∧ Memory.below s.outLen.toNat s.outMem = true)
    (hlen : s.outLen.toNat ≤ c.outCap) (hfail : e ≠ .ok → outputsZero s)
    (htag : s.tagOut ≠ 0#128 → s.lastOpc = 0x1#4) : Inv c (settle e cause s) where
  flags := ⟨by simp, by simp, hfit, rfl, fun _ => rfl, by simp⟩
  buffers := ⟨haad, hin, hout, ⟨rfl, rfl⟩, hlen, Nat.zero_le _⟩
  command := ⟨.inl rfl, by simp, by simp⟩
  hidden := ⟨fun _ => ⟨rfl, rfl, rfl⟩, by simp, fun _ _ => ⟨rfl, rfl, rfl⟩, by simp, by simp, by simp, by simp, hfail,
    htag⟩

/-- The commit makes the stage visible where OUT_MEM is empty, or nothing at all. -/
theorem inv_commit (hc : c.wellFormed = true) (h : Inv c s) (hp : s.phase = .commit) : Inv c (commit s) := by
  have hb : s.busy = true := h.busy (by simp [hp])
  have hfit := h.flags.resultFits
  have hzero := h.hidden.busyNoOutput hb
  rcases commit_cases s with ⟨hok, hcase⟩ | ⟨-, hcase⟩ <;> rw [hcase]
  · obtain ⟨hout, -, -⟩ := hzero
    obtain ⟨-, -, ⟨-, -, hcap⟩, -⟩ := (Config.wellFormed_iff c).1 hc
    have hstage := h.buffers.stageFits
    have hlen : (BitVec.ofNat 64 s.stageLen).toNat = s.stageLen := by
      rw [BitVec.toNat_ofNat, Nat.mod_eq_of_lt (by omega)]
    refine inv_settle (hok ▸ hfit) h.buffers.aadWf h.buffers.inWf ?_ (hlen.trans_le hstage) (fun hne => absurd rfl hne)
      fun hne => ?_
    · rw [publish_outMem, publish_outLen, hlen, hout]
      exact ⟨Memory.wf_writeBytes rfl 0 _, Memory.below_writeBytes rfl (by simp [stageBytes])⟩
    · have hcmd := (decode_eq_command_iff s.cmdw .encrypt).1 (h.hidden.tagStaged hne)
      rw [publish_lastOpc, h.flags.lastOpcode hb, hcmd]
      rfl
  · exact inv_settle hfit h.buffers.aadWf h.buffers.inWf h.buffers.outWf h.buffers.outFits (fun _ => hzero)
      h.hidden.tagOutput

/-- A running command's step keeps the invariant. -/
theorem inv_execOn {i : Instr} (hc : c.wellFormed = true) (h : Inv c s) (hi : s.phase ≠ .idle)
    (hd : decode s.cmdw = .command i) (he : execOn c i s = .next t) : Inv c t := by
  by_cases hcommit : s.phase = .commit
  · rw [execOn_commit i hcommit] at he
    cases he
    exact inv_commit hc h hcommit
  · refine h.of_workStep hi (workStep_execOn he hi hcommit) ?_
    rcases execOn_next he with ⟨hp, -⟩ | ⟨hp, rfl | rfl, rfl⟩ | ⟨hp, rfl, rfl⟩ | ⟨hp, rfl, rfl⟩ | ⟨hp, rfl, rfl⟩
      | ⟨hp, rfl, rfl⟩ | ⟨hp, rfl, rfl⟩ | ⟨hp, rfl, rfl⟩ | ⟨hp, rfl, rfl⟩ | ⟨hp, rfl, rfl⟩ | ⟨hp, rfl, rfl⟩
      | ⟨hp, rfl, rfl⟩ | ⟨hp, rfl, rfl⟩ | ⟨hp, -⟩
    · exact absurd hp hi
    · exact workInv_checkLengths_keygen h hp (by rw [hd]; rfl)
    · exact workInv_checkLengths_keygen h hp (by rw [hd]; rfl)
    · exact workInv_checkLengths_pad h hp hd
    · exact workInv_goTo_keygen h hp hd
    · exact workInv_keygen h hp hd (.inl ⟨rfl, rfl⟩)
    · exact workInv_keygen h hp hd (.inr ⟨rfl, rfl⟩)
    · exact workInv_deriveKeyStaged hc h hp
    · exact workInv_cipher_encrypt hc h hp hd
    · exact workInv_cipher_decrypt hc h hp
    · exact workInv_encryptMac h hp hd
    · exact workInv_decryptMac h hp hd
    · exact workInv_compareTags h hp hd
    · exact workInv_padOut h hp
    · exact absurd hp hcommit

/-- So does an illegal word's. -/
theorem inv_illegalStep {why : Illegal} (hc : c.wellFormed = true) (h : Inv c s) (he : illegalStep why s = .next t) :
    Inv c t := by
  rcases illegalStep_next he with ⟨-, rfl⟩ | ⟨hp, rfl⟩ | ⟨hp, rfl⟩
  · exact h
  · exact h.of_workStep (by simp [hp]) rfl
      (workInv_fail (by cases why <;> rfl) (h.hidden.unstaged (by simp [hp]) (by simp [hp])))
  · exact inv_commit hc h hp

theorem inv_sequencerTurn (hc : c.wellFormed = true) (h : Inv c s) (he : sequencerTurn (execOn c) s = .next t) :
    Inv c t := by
  rcases sequencerTurn_next he with ⟨-, rfl⟩ | ⟨hi, i, hd, hex⟩ | ⟨-, why, -, hill⟩
  · exact h
  · exact inv_execOn hc h hi hd hex
  · exact inv_illegalStep hc h hill

/-! ### The host keeps it -/

/-- The invariant does not speak of IRQ_EN, OVERRUN, the script or the bus's answer, and of DONE only that it is 0 while
a command runs. -/
theorem Inv.of_hostFields (h : Inv c s) (irqEn done overrun : Bool) (script : List Turn) (response : Response)
    (hdone : s.busy = true → done = false) :
    Inv c { s with irqEn := irqEn, done := done, overrun := overrun, script := script, response := response } where
  flags := ⟨h.flags.busyIffRunning, fun hb => ⟨hdone hb, (h.flags.clearWhileBusy hb).2⟩, h.flags.causeFitsErr,
    h.flags.resultFits, h.flags.resultOpen, h.flags.lastOpcode⟩
  buffers := ⟨h.buffers.aadWf, h.buffers.inWf, h.buffers.outWf, h.buffers.stageWf, h.buffers.outFits,
    h.buffers.stageFits⟩
  command := ⟨h.command.phaseReached, h.command.lengthsBounded, h.command.padBounded⟩
  hidden := ⟨h.hidden.idleClear, h.hidden.keyUnset, h.hidden.unstaged, h.hidden.macStaged, h.hidden.failUnstaged,
    h.hidden.tagStaged, h.hidden.busyNoOutput, h.hidden.failNoOutput, h.hidden.tagOutput⟩

theorem Inv.done_of_busy (h : Inv c s) (hb : s.busy = true) : s.done = false := by
  obtain ⟨hdone, -, -⟩ := h.flags.clearWhileBusy hb
  exact hdone

theorem inv_setScript (h : Inv c s) (l : List Turn) : Inv c (setScript l s) :=
  h.of_hostFields s.irqEn s.done s.overrun l s.response h.done_of_busy

theorem inv_respond (h : Inv c s) (r : Response) : Inv c (respond r s) :=
  h.of_hostFields s.irqEn s.done s.overrun s.script r h.done_of_busy

/-- On an idle block the operands are free, as long as the input buffers stay canonical. -/
theorem Inv.of_operands (h : Inv c s) (hi : s.phase = .idle) (aadLen dataLen : DWord) (key : Key) (nonce : Nonce)
    (tagIn : Tag) {aadMem inMem : Memory}
    (haad : Memory.wf (aadUnlisted c s) aadMem = true ∧ Memory.below c.aadCap aadMem = true)
    (hin : Memory.wf (inUnlisted c s) inMem = true ∧ Memory.below c.dataCap inMem = true) :
    Inv c { s with
      aadLen := aadLen, dataLen := dataLen, key := key, nonce := nonce, tagIn := tagIn
      aadMem := aadMem, inMem := inMem } where
  flags := ⟨h.flags.busyIffRunning, h.flags.clearWhileBusy, h.flags.causeFitsErr, h.flags.resultFits,
    h.flags.resultOpen, h.flags.lastOpcode⟩
  buffers := ⟨haad, hin, h.buffers.outWf, h.buffers.stageWf, h.buffers.outFits, h.buffers.stageFits⟩
  command := ⟨.inl hi, by simp [hi], by simp [hi]⟩
  hidden := ⟨h.hidden.idleClear, h.hidden.keyUnset, h.hidden.unstaged, by simp [hi], h.hidden.failUnstaged,
    h.hidden.tagStaged, h.hidden.busyNoOutput, h.hidden.failNoOutput, h.hidden.tagOutput⟩

theorem Inv.idle (h : Inv c s) (hb : s.busy = false) : s.phase = .idle := by
  by_contra hne
  exact absurd (h.busy hne) (by simp [hb])

theorem inv_accept (h : Inv c s) (hb : s.busy = false) (w : Word) : Inv c (accept w s) := by
  have hi := h.idle hb
  obtain ⟨-, hmackey, hexpTag⟩ := h.hidden.idleClear hi
  have hn : nothingStaged s := h.hidden.unstaged (by simp [hi]) (by simp [hi])
  obtain ⟨-, -, htag⟩ := id hn
  exact {
    flags := ⟨by simp, by simp, rfl, rfl, fun _ => rfl, fun _ => rfl⟩
    buffers := ⟨h.buffers.aadWf, h.buffers.inWf, ⟨rfl, rfl⟩, h.buffers.stageWf, Nat.zero_le _, h.buffers.stageFits⟩
    command := ⟨.inr (by rw [accept_phase]; cases decode (accept w s).cmdw <;> rfl), by simp, by simp⟩
    hidden := ⟨by simp, fun _ => ⟨hmackey, hexpTag⟩, fun _ _ => hn, by simp, fun _ => hn, fun hne => absurd htag hne,
      fun _ => ⟨rfl, rfl, rfl⟩, fun _ => ⟨rfl, rfl, rfl⟩, by simp⟩ }

/-- Every state at the reset values meets the invariant, whatever its input buffers hold. -/
theorem inv_of_atResetValues (h : AtResetValues s)
    (haad : Memory.wf (aadUnlisted c s) s.aadMem = true ∧ Memory.below c.aadCap s.aadMem = true)
    (hin : Memory.wf (inUnlisted c s) s.inMem = true ∧ Memory.below c.dataCap s.inMem = true) : Inv c s := by
  obtain ⟨⟨-, hbusy, -, -, herr, hcause, -⟩, ⟨-, -, houtLen⟩, ⟨-, -, -, htagOut, houtMem⟩,
    ⟨hphase, hcmdw, hresult, hmackey, hexpTag⟩, hstage, hstageLen, hstageTag⟩ := h
  have hn : nothingStaged s := ⟨hstage, hstageLen, hstageTag⟩
  have hz : outputsZero s := ⟨houtMem, houtLen, htagOut⟩
  exact {
    flags := ⟨by simp [hbusy, hphase], by simp [hbusy], by simp [herr, hcause, causeFits],
      by simp [hresult, causeFits], fun _ => hresult, by simp [hbusy]⟩
    buffers := ⟨haad, hin, by simp [houtMem], stageWf_of_nothingStaged hn, by simp [houtLen], by simp [hstageLen]⟩
    command := ⟨.inl hphase, by simp [hphase], by simp [hphase]⟩
    hidden := ⟨fun _ => ⟨hcmdw, hmackey, hexpTag⟩, fun _ => ⟨hmackey, hexpTag⟩, fun _ _ => hn, by simp [hphase],
      fun _ => hn, fun hne => absurd hstageTag hne, fun _ => hz, fun _ => hz, fun hne => absurd htagOut hne⟩ }

theorem atResetValues_softReset : AtResetValues (softReset s) := by simp [AtResetValues]

theorem atResetValues_powerOnReset : AtResetValues (powerOnReset s) := by simp [AtResetValues]

theorem inv_softReset (h : Inv c s) : Inv c (softReset s) :=
  inv_of_atResetValues atResetValues_softReset h.buffers.aadWf h.buffers.inWf

theorem inv_powerOnReset : Inv c (powerOnReset s) :=
  inv_of_atResetValues atResetValues_powerOnReset ⟨rfl, rfl⟩ ⟨rfl, rfl⟩

theorem inv_unlessBusy {f : State → State} (h : Inv c s) (hf : s.busy = false → Inv c (f s)) :
    Inv c (unlessBusy f s) := by
  cases hb : s.busy with
  | true => rwa [unlessBusy_busy hb]
  | false => rw [unlessBusy_idle hb]; exact hf hb

/-- A host write to a register. -/
theorem inv_writeReg (h : Inv c s) (v : Word) (r : Reg) : Inv c (writeReg v r s) := by
  have hoperand (hb : s.busy = false) (aadLen dataLen : DWord) (key : Key) (nonce : Nonce) (tagIn : Tag) :=
    h.of_operands (h.idle hb) aadLen dataLen key nonce tagIn h.buffers.aadWf h.buffers.inWf
  cases r with
  | ctrl =>
    cases hv : v.getLsbD 1 with
    | true => rw [writeReg, ctrlWrite_reset s hv]; exact inv_softReset h
    | false =>
      rw [writeReg, ctrlWrite_keep s hv]
      exact h.of_hostFields _ s.done s.overrun s.script s.response h.done_of_busy
  | cmd =>
    cases hb : s.busy with
    | true =>
      rw [writeReg, cmdWrite_busy v hb]
      exact h.of_hostFields s.irqEn s.done true s.script s.response h.done_of_busy
    | false => rw [writeReg, cmdWrite_idle v hb]; exact inv_accept h hb v
  | status =>
    exact h.of_hostFields s.irqEn _ _ s.script s.response fun hb => by rw [h.done_of_busy hb, Bool.false_and]
  | aadLenLo | aadLenHi =>
    rw [writeReg]
    exact inv_unlessBusy h fun hb => hoperand hb _ s.dataLen s.key s.nonce s.tagIn
  | dataLenLo | dataLenHi =>
    rw [writeReg]
    exact inv_unlessBusy h fun hb => hoperand hb s.aadLen _ s.key s.nonce s.tagIn
  | key =>
    rw [writeReg]
    exact inv_unlessBusy h fun hb => hoperand hb s.aadLen s.dataLen _ s.nonce s.tagIn
  | nonce =>
    rw [writeReg]
    exact inv_unlessBusy h fun hb => hoperand hb s.aadLen s.dataLen s.key _ s.tagIn
  | tagIn =>
    rw [writeReg]
    exact inv_unlessBusy h fun hb => hoperand hb s.aadLen s.dataLen s.key s.nonce _
  | outLenLo | outLenHi | capAad | capData | capOut | tagOut => exact h

/-- A word of a window that an offset names lies within the buffer's capacity, a multiple of 4 (00_scope.md R8). -/
theorem window_word_fits {off : Nat} {tgt : Target} (hc : c.wellFormed = true) (h : targetOf c off = some tgt) :
    (∀ o, tgt = .aad o → o + 4 ≤ c.aadCap) ∧ (∀ o, tgt = .data o → o + 4 ≤ c.dataCap) := by
  obtain ⟨⟨haad, -, -⟩, ⟨hdata, -, -⟩, -⟩ := (Config.wellFormed_iff c).1 hc
  unfold targetOf aadWindow dataWindow outWindow at h
  split_ifs at h
  · cases h
    exact ⟨fun o ho => by have := Target.aad.inj ho; omega, by simp⟩
  · cases h
    exact ⟨by simp, fun o ho => by have := Target.data.inj ho; omega⟩
  · cases h
    simp
  · obtain ⟨r, -, rfl⟩ := Option.map_eq_some_iff.1 h
    simp

/-- A host write of four bytes into an input buffer. -/
theorem window_wf {d : Nat → Byte} {m : Memory} {cap off : Nat} (v : Word)
    (h : Memory.wf d m = true ∧ Memory.below cap m = true) (hfit : off + 4 ≤ cap) :
    Memory.wf d (Memory.writeBytes d m off (bytesOf v 4)) = true
      ∧ Memory.below cap (Memory.writeBytes d m off (bytesOf v 4)) = true := by
  obtain ⟨hwf, hbelow⟩ := h
  exact ⟨Memory.wf_writeBytes hwf off _, Memory.below_writeBytes hbelow (by rwa [length_bytesOf])⟩

theorem inv_hostWrite {addr : Nat} {v : Word} (hc : c.wellFormed = true) (h : Inv c s)
    (he : hostWrite c addr v s = .next t) : Inv c t := by
  obtain ⟨off, tgt, -, ht, rfl⟩ := hostAccess_next he
  obtain ⟨haad, hdata⟩ := window_word_fits hc ht
  refine inv_respond ?_ _
  cases tgt with
  | reg r => exact inv_writeReg h v r
  | aad o =>
    rw [writeTarget]
    exact inv_unlessBusy h fun hb => h.of_operands (h.idle hb) s.aadLen s.dataLen s.key s.nonce s.tagIn
      (window_wf v h.buffers.aadWf (haad o rfl)) h.buffers.inWf
  | data o =>
    rw [writeTarget]
    exact inv_unlessBusy h fun hb => h.of_operands (h.idle hb) s.aadLen s.dataLen s.key s.nonce s.tagIn
      h.buffers.aadWf (window_wf v h.buffers.inWf (hdata o rfl))
  | out => exact h

/-- Every step of every allowed configuration keeps the invariant. -/
theorem inv_stepOn (hc : c.wellFormed = true) (h : Inv c s) (he : stepOn c s = .next t) : Inv c t := by
  rw [stepOn] at he
  cases hs : s.script with
  | nil =>
    rw [stepWith_nil hs] at he
    exact inv_sequencerTurn hc h he
  | cons turn rest =>
    rw [stepWith_cons hs] at he
    have h' := inv_setScript h rest
    cases turn with
    | read addr => rw [hostRead_next he]; exact inv_respond h' _
    | write addr v => exact inv_hostWrite hc h' he
    | sequencer => exact inv_sequencerTurn hc h' he
    | powerOnReset => cases he; exact inv_powerOnReset

end

/-- Settles O49, by the turn the step takes: a running command by its phase, a host access by the word it names, and the
resets. -/
theorem stepKeepsInvariant : Obligations.StepKeepsInvariant := by
  intro s t h he
  exact inv_stepOn Config.hw_wellFormed h (step_eq_stepOn s ▸ he)

end Sys2Proof.Machine

/-! The step lemma of verify-before-decrypt (43_decrypt.md R212). First everything a host write can do, then which
events the log gains, then the phases. -/

namespace Sys2Proof.Machine

section
variable {c : Config} {s t : State}

/-! ### What a host write can do -/

/-- `t` is `s` but for IRQ_EN, the two write-one-to-clear flags and the operands, and while a command runs the operands
are the same too (20_memory.md R91). -/
def HostWritten (s t : State) : Prop :=
  t = { s with
    irqEn := t.irqEn, done := t.done, overrun := t.overrun, aadLen := t.aadLen, dataLen := t.dataLen
    key := t.key, nonce := t.nonce, tagIn := t.tagIn, aadMem := t.aadMem, inMem := t.inMem }
  ∧ (s.busy = true → SameOperandFields s t)

theorem hostWritten_of_eq (h : t = { s with irqEn := t.irqEn, done := t.done, overrun := t.overrun }) :
    HostWritten s t := by
  rw [h]
  exact ⟨rfl, fun _ => SameOperandFields.refl s⟩

theorem hostWritten_unlessBusy {f : State → State} (hf : f s = { s with
      aadLen := (f s).aadLen, dataLen := (f s).dataLen, key := (f s).key, nonce := (f s).nonce
      tagIn := (f s).tagIn, aadMem := (f s).aadMem, inMem := (f s).inMem }) :
    HostWritten s (unlessBusy f s) := by
  cases hb : s.busy with
  | true => rw [unlessBusy_busy hb]; exact hostWritten_of_eq rfl
  | false =>
    rw [unlessBusy_idle hb, hf]
    exact ⟨rfl, fun h => absurd (hb.symm.trans h) Bool.false_ne_true⟩

/-- Everything a host write can do: a soft reset, an accept, or a write of flags and operands. -/
theorem writeTarget_cases (c : Config) (v : Word) (tgt : Target) (s : State) :
    (tgt = .reg .ctrl ∧ v.getLsbD 1 = true ∧ writeTarget c v tgt s = softReset s)
    ∨ (s.busy = false ∧ writeTarget c v tgt s = accept v s)
    ∨ HostWritten s (writeTarget c v tgt s) := by
  cases tgt with
  | reg r =>
    rw [writeTarget]
    cases r with
    | ctrl =>
      cases hv : v.getLsbD 1 with
      | true => exact .inl ⟨rfl, rfl, ctrlWrite_reset s hv⟩
      | false => rw [writeReg, ctrlWrite_keep s hv]; exact .inr (.inr (hostWritten_of_eq rfl))
    | cmd =>
      cases hb : s.busy with
      | true => rw [writeReg, cmdWrite_busy v hb]; exact .inr (.inr (hostWritten_of_eq rfl))
      | false => exact .inr (.inl ⟨rfl, cmdWrite_idle v hb⟩)
    | status | outLenLo | outLenHi | capAad | capData | capOut | tagOut => exact .inr (.inr (hostWritten_of_eq rfl))
    | aadLenLo | aadLenHi | dataLenLo | dataLenHi | key | nonce | tagIn =>
      rw [writeReg]
      exact .inr (.inr (hostWritten_unlessBusy rfl))
  | aad | data => rw [writeTarget]; exact .inr (.inr (hostWritten_unlessBusy rfl))
  | out => exact .inr (.inr (hostWritten_of_eq rfl))

/-- CTRL is at offset 0x000 alone, so a reset written there is `isSoftReset`. -/
theorem isSoftReset_of_ctrl {addr off : Nat} {v : Word} (ho : offsetOf c addr = some off)
    (ht : targetOf c off = some (.reg .ctrl)) (hv : v.getLsbD 1 = true) : isSoftReset c addr v = true := by
  obtain ⟨hctrl, -, -⟩ := registerMap_control_offsets _ (mem_registerMap_of_lookup (lookup_of_targetOf_eq_reg ht))
  obtain rfl : off = 0x000 := hctrl rfl
  rw [isSoftReset, ho, hv]
  rfl

theorem hostWrite_cases {addr : Nat} {v : Word} (h : hostWrite c addr v s = .next t) : ∃ u, t = respond .written u
    ∧ ((isSoftReset c addr v = true ∧ u = softReset s) ∨ (s.busy = false ∧ u = accept v s) ∨ HostWritten s u) := by
  obtain ⟨off, tgt, ho, ht, rfl⟩ := hostAccess_next h
  refine ⟨_, rfl, ?_⟩
  rcases writeTarget_cases c v tgt s with ⟨rfl, hv, hw⟩ | hw | hw
  · exact .inl ⟨isSoftReset_of_ctrl ho ht hv, hw⟩
  · exact .inr (.inl hw)
  · exact .inr (.inr hw)

/-! ### Apply transactions since the last accept -/

theorem sinceAccept_concat (l : List Event) (e : Event) :
    sinceAccept (l ++ [e]) = if e.isAccept = true then [] else sinceAccept l ++ [e] := by
  simp only [sinceAccept, List.reverse_append, List.reverse_singleton, List.singleton_append, List.takeWhile_cons]
  cases e.isAccept <;> simp

theorem noApply_of_accept {w : Word} (hlog : t.log = s.log ++ [.accept w]) : noApplySinceAccept t := by
  rw [noApplySinceAccept, hlog, sinceAccept_concat]
  rfl

/-- An event that is no apply transaction adds none. -/
theorem noApply_of_event {e : Event} (h : noApplySinceAccept s) (hlog : t.log = s.log ++ [e])
    (he : e.isApply = false) : noApplySinceAccept t := by
  rw [noApplySinceAccept] at h
  rw [noApplySinceAccept, hlog, sinceAccept_concat]
  split
  · rfl
  · rw [List.all_append, h]
    simp [he]

theorem noApply_of_log_eq (h : noApplySinceAccept s) (hlog : t.log = s.log) : noApplySinceAccept t := by
  rwa [noApplySinceAccept, hlog]

/-! ### Verify before decrypt -/

/-- Where there was no apply transaction, only CIPHER asks for more: equal tags. -/
theorem verifyFirst_of_noApply (h : noApplySinceAccept s)
    (heq : s.phase = .cipher → ctEq16 s.expTag s.tagIn = true) : VerifyFirst s :=
  ⟨fun _ _ => h, fun _ hp => ⟨heq hp, h⟩, fun _ => h, fun _ => h⟩

/-- A block that is not in a DECRYPT before its commit, with no mismatch pending or committed, is asked nothing. -/
theorem verifyFirst_of_other (hd : decode s.cmdw = .command .decrypt → s.phase = .commit)
    (hr : s.result.1 ≠ .authenticationFailure) (he : s.err ≠ .authenticationFailure) : VerifyFirst s where
  beforeCompare := fun h hp => by simp [hd h] at hp
  cipherVerified := fun h hp => by simp [hd h] at hp
  mismatchPending := fun h => absurd (congrArg Prod.fst h) hr
  mismatchDone := fun h => absurd h he

theorem verifyFirst_of_atResetValues (h : AtResetValues s) : VerifyFirst s := by
  obtain ⟨⟨-, -, -, -, herr, -⟩, -, -, ⟨-, hcmdw, hresult, -⟩, -⟩ := h
  exact verifyFirst_of_other (by rw [hcmdw]; exact fun hd => absurd hd (by decide)) (by simp [hresult]) (by simp [herr])

theorem checkLengths_no_mismatch {ok : State → State} (hok : (ok s).result.1 ≠ .authenticationFailure) :
    (checkLengths c ok s).result.1 ≠ .authenticationFailure := by
  rcases checkLengths_cases c ok s with ⟨-, h⟩ | ⟨-, -, h⟩ | ⟨-, -, h⟩ <;> rw [h]
  · simp
  · simp
  · exact hok

theorem cipher_no_mismatch {e : Err} {next : State → State} (hs : s.result.1 ≠ .authenticationFailure)
    (he : e ≠ .authenticationFailure) (hnext : ∀ u, (next u).result = u.result) :
    (cipher c e next s).result.1 ≠ .authenticationFailure := by
  rcases cipher_cases c e next s with ⟨-, h⟩ | ⟨r, -, h⟩ <;> rw [h]
  · exact he
  · rw [hnext]
    exact hs

/-- Only COMPARE reports a wrong tag. -/
theorem execOn_no_mismatch {i : Instr} (h : execOn c i s = .next t) (hi : s.phase ≠ .idle) (hc : s.phase ≠ .commit)
    (hs : s.result.1 ≠ .authenticationFailure) (hne : ¬ (i = .decrypt ∧ s.phase = .compare)) :
    t.result.1 ≠ .authenticationFailure := by
  rcases execOn_next h with ⟨hp, -⟩ | ⟨-, -, rfl⟩ | ⟨-, -, rfl⟩ | ⟨-, -, rfl⟩ | ⟨-, -, rfl⟩ | ⟨-, -, rfl⟩ | ⟨-, -, rfl⟩
    | ⟨-, -, rfl⟩ | ⟨-, -, rfl⟩ | ⟨-, -, rfl⟩ | ⟨-, -, rfl⟩ | ⟨hp, hd, -⟩ | ⟨-, -, rfl⟩ | ⟨hp, -⟩
  · exact absurd hp hi
  · exact checkLengths_no_mismatch hs
  · refine checkLengths_no_mismatch ?_
    rcases checkPadLength_cases c s with ⟨-, h⟩ | ⟨-, h⟩ <;> rw [h]
    · simp
    · exact hs
  · exact hs
  · exact hs
  · exact hs
  · exact hs
  · exact cipher_no_mismatch hs (by decide) fun _ => rfl
  · exact cipher_no_mismatch hs (by decide) fun _ => rfl
  · exact hs
  · exact hs
  · exact absurd ⟨hd, hp⟩ hne
  · exact hs
  · exact absurd hp hc

theorem log_checkLengths {ok : State → State} (hok : (ok s).log = s.log) : (checkLengths c ok s).log = s.log := by
  rcases checkLengths_cases c ok s with ⟨-, h⟩ | ⟨-, -, h⟩ | ⟨-, -, h⟩ <;> rw [h]
  · rfl
  · rfl
  · exact hok

/-- DECRYPT up to COMPARE: no apply transaction, and CIPHER only with equal tags. -/
theorem verifyFirst_execOn_decrypt (h : execOn c .decrypt s = .next t) (hi : s.phase ≠ .idle) (hx : s.phase ≠ .cipher)
    (hc : s.phase ≠ .commit) (hlog : noApplySinceAccept s) : VerifyFirst t := by
  rcases execOn_next h with ⟨hp, -⟩ | ⟨-, -, rfl⟩ | ⟨-, ⟨⟩, -⟩ | ⟨-, ⟨⟩, -⟩ | ⟨-, ⟨⟩, -⟩ | ⟨-, -, rfl⟩ | ⟨-, ⟨⟩, -⟩
    | ⟨-, ⟨⟩, -⟩ | ⟨hp, -⟩ | ⟨-, ⟨⟩, -⟩ | ⟨-, -, rfl⟩ | ⟨-, -, rfl⟩ | ⟨-, ⟨⟩, -⟩ | ⟨hp, -⟩
  · exact absurd hp hi
  · refine verifyFirst_of_noApply (noApply_of_log_eq hlog (log_checkLengths rfl)) ?_
    rcases checkLengths_cases c (goTo .keygen) s with ⟨-, h⟩ | ⟨-, -, h⟩ | ⟨-, -, h⟩ <;> simp [h]
  · exact verifyFirst_of_noApply (noApply_of_event hlog (keygen_log c s) rfl) (by simp)
  · exact absurd hp hx
  · exact verifyFirst_of_noApply (noApply_of_event hlog rfl rfl) (by simp [decryptMac])
  · rcases compareTags_cases s with ⟨heq, hcase⟩ | ⟨-, hcase⟩ <;> rw [hcase]
    · exact verifyFirst_of_noApply (noApply_of_log_eq hlog rfl) fun _ => heq
    · exact verifyFirst_of_noApply (noApply_of_log_eq hlog rfl) (by simp)
  · exact absurd hp hc

theorem eq_tagMismatch_of_causeFits {cause : Cause} (h : causeFits .authenticationFailure cause = true) :
    cause = .tagMismatch := by
  cases cause with
  | tagMismatch => rfl
  | none | streamLimit | aadTooLong | dataTooLong | padTooLong | badOpcode | reservedBits => cases h

/-- The commit of a wrong tag logs the commit and nothing else. -/
theorem verifyFirst_commit (h : Inv c s) (hv : VerifyFirst s) : VerifyFirst (commit s) := by
  have hcmdw : (commit s).cmdw = 0#32 := by rw [commit_frame]
  have hresult : (commit s).result = (.ok, .none) := by rw [commit_frame]
  have hlog : (commit s).log = s.log ++ [.commit s.result.1 s.result.2] := by rw [commit_frame]
  by_cases hr : s.result.1 = .authenticationFailure
  · have hfit := h.flags.resultFits
    rw [hr] at hfit
    have hcause := eq_tagMismatch_of_causeFits hfit
    exact verifyFirst_of_noApply (noApply_of_event (hv.mismatchPending (Prod.ext hr hcause)) hlog rfl) (by simp)
  · refine verifyFirst_of_other ?_ (by simp [hresult]) (by rwa [commit_err])
    rw [hcmdw]
    exact fun hd => absurd hd (by decide)

/-- While a command runs ERR is OK, and until COMMIT so is the result. -/
theorem Inv.no_mismatch (h : Inv c s) (hi : s.phase ≠ .idle) :
    s.err ≠ .authenticationFailure ∧ (s.phase ≠ .commit → s.result.1 ≠ .authenticationFailure) := by
  obtain ⟨-, herr, -⟩ := h.flags.clearWhileBusy (h.busy hi)
  exact ⟨by simp [herr], fun hc => by simp [h.result_open hc]⟩

theorem verifyFirst_execOn {i : Instr} (h : Inv c s) (hv : VerifyFirst s) (hi : s.phase ≠ .idle)
    (hd : decode s.cmdw = .command i) (he : execOn c i s = .next t) : VerifyFirst t := by
  by_cases hc : s.phase = .commit
  · rw [execOn_commit i hc] at he
    cases he
    exact verifyFirst_commit h hv
  · obtain ⟨herr, hres⟩ := h.no_mismatch hi
    have hframe := workStep_execOn he hi hc
    have herrT : t.err ≠ .authenticationFailure := by rw [hframe]; exact herr
    by_cases hdec : i = .decrypt
    · subst hdec
      by_cases hx : s.phase = .cipher
      · have hresT := execOn_no_mismatch he hi hc (hres hc) (by simp [hx])
        rw [execOn_decrypt_cipher hx] at he
        refine verifyFirst_of_other (fun _ => ?_) hresT herrT
        cases he
        rcases cipher_cases c .decryptionFailure decryptStaged s with ⟨-, hcase⟩ | ⟨r, -, hcase⟩ <;> rw [hcase] <;> rfl
      · refine verifyFirst_execOn_decrypt he hi hx hc (hv.beforeCompare hd ?_)
        have hreach : reaches (.command .decrypt) s.phase = true := hd ▸ h.command.phaseReached.resolve_left hi
        cases hp : s.phase <;> simp_all [reaches]
    · refine verifyFirst_of_other (fun hdT => ?_) (execOn_no_mismatch he hi hc (hres hc) (fun hd => hdec hd.1)) herrT
      rw [hframe] at hdT
      exact absurd (Decoded.command.inj (hd.symm.trans hdT)) hdec

theorem verifyFirst_sequencerTurn (h : Inv c s) (hv : VerifyFirst s) (he : sequencerTurn (execOn c) s = .next t) :
    VerifyFirst t := by
  rcases sequencerTurn_next he with ⟨-, rfl⟩ | ⟨hi, i, hd, hex⟩ | ⟨hi, why, hd, hill⟩
  · exact hv
  · exact verifyFirst_execOn h hv hi hd hex
  · rcases illegalStep_next hill with ⟨hp, -⟩ | ⟨-, rfl⟩ | ⟨-, rfl⟩
    · exact absurd hp hi
    · obtain ⟨herr, -⟩ := h.no_mismatch hi
      exact verifyFirst_of_other (fun _ => rfl) (by simp) herr
    · exact verifyFirst_commit h hv

/-- A write of flags and operands cannot change the tag of a DECRYPT whose tags have compared equal. -/
theorem verifyFirst_hostWritten (h : Inv c s) (hv : VerifyFirst s) (hw : HostWritten s t) : VerifyFirst t := by
  obtain ⟨hf, hbusy⟩ := hw
  have htag (hp : s.phase = .cipher) : t.tagIn = s.tagIn := by
    obtain ⟨⟨-, -, htag⟩, -⟩ := hbusy (h.busy (by simp [hp]))
    exact htag
  rw [hf]
  exact ⟨hv.beforeCompare, fun hd hp => by rw [htag hp]; exact hv.cipherVerified hd hp, hv.mismatchPending,
    hv.mismatchDone⟩

theorem verifyFirst_respond (h : VerifyFirst s) (r : Response) : VerifyFirst (respond r s) :=
  ⟨h.beforeCompare, h.cipherVerified, h.mismatchPending, h.mismatchDone⟩

theorem verifyFirst_setScript (h : VerifyFirst s) (l : List Turn) : VerifyFirst (setScript l s) :=
  ⟨h.beforeCompare, h.cipherVerified, h.mismatchPending, h.mismatchDone⟩

theorem verifyFirst_hostWrite {addr : Nat} {v : Word} (h : Inv c s) (hv : VerifyFirst s)
    (he : hostWrite c addr v s = .next t) : VerifyFirst t := by
  obtain ⟨u, rfl, hu⟩ := hostWrite_cases he
  refine verifyFirst_respond ?_ _
  rcases hu with ⟨-, rfl⟩ | ⟨-, rfl⟩ | hw
  · exact verifyFirst_of_atResetValues atResetValues_softReset
  · exact verifyFirst_of_noApply (noApply_of_accept (accept_log v s)) (by simp)
  · exact verifyFirst_hostWritten h hv hw

theorem verifyFirst_stepOn (h : Inv c s) (hv : VerifyFirst s) (he : stepOn c s = .next t) : VerifyFirst t := by
  rw [stepOn] at he
  cases hs : s.script with
  | nil =>
    rw [stepWith_nil hs] at he
    exact verifyFirst_sequencerTurn h hv he
  | cons turn rest =>
    rw [stepWith_cons hs] at he
    have h' := inv_setScript h rest
    have hv' := verifyFirst_setScript hv rest
    cases turn with
    | read addr => rw [hostRead_next he]; exact verifyFirst_respond hv' _
    | write addr v => exact verifyFirst_hostWrite h' hv' he
    | sequencer => exact verifyFirst_sequencerTurn h' hv' he
    | powerOnReset => cases he; exact verifyFirst_of_atResetValues atResetValues_powerOnReset

end

/-- Settles O50: no apply transaction is logged before COMPARE has found the tags equal, only COMPARE leads DECRYPT to
CIPHER, and the host cannot change the tag in between. -/
theorem stepKeepsVerifyFirst : Obligations.StepKeepsVerifyFirst := by
  intro s t h hv he
  exact verifyFirst_stepOn h hv (step_eq_stepOn s ▸ he)

end Sys2Proof.Machine

/-! The statements of 20_memory.md that are left: which accesses answer, the windows and the lengths word by word, what
reads show of a running command, and what a host access leaves alone. -/

namespace Sys2Proof.Machine

section
variable {c : Config} {s t : State}

/-! ### Which offsets name something -/

theorem registerMap_implemented : ∀ p ∈ registerMap, p.1 = 0x000 ∨ p.1 = 0x004 ∨ p.1 = 0x008
    ∨ (0x010 ≤ p.1 ∧ p.1 < 0x020) ∨ (0x040 ≤ p.1 ∧ p.1 < 0x06C) ∨ (0x070 ≤ p.1 ∧ p.1 < 0x080)
    ∨ (0x020 ≤ p.1 ∧ p.1 < 0x034) ∨ (0x080 ≤ p.1 ∧ p.1 < 0x090) := by decide

theorem implementedOffset_of_targetOf {off : Nat} {tgt : Target} (h : targetOf c off = some tgt) :
    implementedOffset c off := by
  unfold targetOf aadWindow dataWindow outWindow at h
  unfold implementedOffset operandOffset readOnlyOffset
  split_ifs at h
  · omega
  · omega
  · omega
  · obtain ⟨r, hl, -⟩ := Option.map_eq_some_iff.1 h
    have hmem := mem_registerMap_of_lookup hl
    have h4 := registerMap_aligned_below _ hmem
    have hoff := registerMap_implemented _ hmem
    simp only at h4 hoff
    omega

theorem targetOf_implementedOffset {off : Nat} (hc : c.wellFormed = true) (h : implementedOffset c off) :
    ∃ tgt, targetOf c off = some tgt := by
  rcases h with rfl | rfl | rfl | h | h
  · exact ⟨_, targetOf_eq_reg lookup_ctrl⟩
  · exact ⟨_, targetOf_eq_reg lookup_cmd⟩
  · exact ⟨_, targetOf_eq_reg lookup_status⟩
  · obtain ⟨tgt, ht, -⟩ := targetOf_operandOffset hc h
    exact ⟨tgt, ht⟩
  · obtain ⟨tgt, ht, -⟩ := targetOf_readOnlyOffset hc h
    exact ⟨tgt, ht⟩

theorem targetOf_eq_none {off : Nat} (h : ¬ implementedOffset c off) : targetOf c off = none :=
  Option.eq_none_iff_forall_ne_some.2 fun _ ht => h (implementedOffset_of_targetOf ht)

theorem implementedOffset_aligned {off : Nat} (h : implementedOffset c off) : off % 4 = 0 := by
  rcases h with rfl | rfl | rfl | ⟨h4, -⟩ | ⟨h4, -⟩
  · rfl
  · rfl
  · rfl
  · exact h4
  · exact h4

/-- A host's turn is one access. -/
theorem step_access {addr : Nat} {v : Word} {rest : List Turn}
    (h : s.script = .read addr :: rest ∨ s.script = .write addr v :: rest) :
    ∃ go, step s = hostAccess Config.hw addr go := by
  rcases h with h | h <;> exact ⟨_, by rw [step, stepWith_cons h]; rfl⟩

end

/-- Settles O10: an offset names something exactly when it is implemented, and an implemented offset is a multiple of
4. -/
theorem busErrorExactlyOffTheMap : Obligations.BusErrorExactlyOffTheMap := by
  intro s off v rest hlt h
  obtain ⟨go, hstep⟩ := step_access h
  have ho : offsetOf Config.hw (Config.hw.base + off) = some off := offsetOf_eq_some.2 ⟨rfl, hlt⟩
  have hoffMap (hn : ¬ implementedOffset Config.hw off) : step s = .fault .busError := by
    rw [hstep, hostAccess_busError go ho (targetOf_eq_none hn)]
  refine ⟨fun h4 => hoffMap fun hi => h4 (implementedOffset_aligned hi), hoffMap, fun hi => ?_⟩
  obtain ⟨tgt, ht⟩ := targetOf_implementedOffset Config.hw_wellFormed hi
  exact ⟨_, hstep.trans (hostAccess_eq go ho ht)⟩

/-- Settles O11: such an address has no offset. -/
theorem accessOutsideApertureFaults : Obligations.AccessOutsideApertureFaults := by
  intro s addr v rest hout h
  obtain ⟨go, hstep⟩ := step_access h
  have ho : offsetOf Config.hw addr = none := if_neg (by unfold apertureSize; omega)
  rw [hstep, hostAccess_outside go ho]

section
variable {s : State} {rest : List Turn}

/-! ### The windows -/

theorem readTarget_setScript (c : Config) (l : List Turn) (s : State) (tgt : Target) :
    readTarget c (setScript l s) tgt = readTarget c s tgt := by
  cases tgt with
  | reg r => exact readReg_setScript c l s r
  | aad | data | out => rfl

/-- A host read as one step. -/
theorem step_readTarget {off : Nat} {tgt : Target} (h : s.script = .read (Config.hw.base + off) :: rest)
    (ht : targetOf Config.hw off = some tgt) :
    step s = .next { s with script := rest, response := .data (readTarget Config.hw s tgt) } := by
  rw [step_read h (offset_lt_of_targetOf Config.hw_wellFormed ht) ht, readTarget_setScript]
  rfl

/-- The four bytes of a word written to a buffer, and the bytes around them. -/
theorem read_writeWord {d : Nat → Byte} (m : Memory) (off : Nat) (v : Word) (a : Nat) :
    Memory.read d (Memory.writeBytes d m off (bytesOf v 4)) a =
      if off ≤ a ∧ a < off + 4 then v.extractLsb' (8 * (a - off)) 8 else Memory.read d m a := by
  rw [Memory.read_writeBytes]
  simp only [length_bytesOf, getElem_bytesOf, byteAt, dite_eq_ite]

theorem step_write_aad {i : Nat} {v : Word} (hb : s.busy = false) (hi : 4 * i < Config.hw.aadCap)
    (h : s.script = .write (Config.hw.base + (0x100000 + 4 * i)) v :: rest) :
    step s = .next { s with
      script := rest, response := .written
      aadMem := Memory.writeBytes (aadUnlisted Config.hw s) s.aadMem (4 * i) (bytesOf v 4) } := by
  have ht := targetOf_aad hi
  rw [step_write h (offset_lt_of_targetOf Config.hw_wellFormed ht) ht, writeTarget,
    unlessBusy_idle (s := setScript rest s) hb]
  rfl

theorem step_write_data {i : Nat} {v : Word} (hb : s.busy = false) (hi : 4 * i < Config.hw.dataCap)
    (h : s.script = .write (Config.hw.base + (0x200000 + 4 * i)) v :: rest) :
    step s = .next { s with
      script := rest, response := .written
      inMem := Memory.writeBytes (inUnlisted Config.hw s) s.inMem (4 * i) (bytesOf v 4) } := by
  have ht := targetOf_data Config.hw_wellFormed hi
  rw [step_write h (offset_lt_of_targetOf Config.hw_wellFormed ht) ht, writeTarget,
    unlessBusy_idle (s := setScript rest s) hb]
  rfl

end

/-- Settles O15: a write replaces the four bytes of its word in the buffer, a read packs them. -/
theorem windowWordsAreFourBytes : Obligations.WindowWordsAreFourBytes := by
  intro s i v rest
  refine ⟨fun hb hi h => ?_, fun hb hi h => ?_, fun hi h => ?_, fun hi h => ?_, fun hi h => ?_⟩
  · exact ⟨_, step_write_aad hb hi h, rfl, read_writeWord s.aadMem (4 * i) v⟩
  · exact ⟨_, step_write_data hb hi h, rfl, read_writeWord s.inMem (4 * i) v⟩
  · exact ⟨_, step_readTarget h (targetOf_aad hi), byteAt_bufferWord _ _ _⟩
  · exact ⟨_, step_readTarget h (targetOf_data Config.hw_wellFormed hi), byteAt_bufferWord _ _ _⟩
  · exact ⟨_, step_readTarget h (targetOf_out Config.hw_wellFormed hi), byteAt_bufferWord _ _ _⟩

/-! ### The length and capacity registers -/

theorem toNat_wordAt_zero (x : DWord) : (wordAt x 0).toNat = x.toNat % 2 ^ 32 := by
  rw [toNat_wordAt, Nat.mul_zero, Nat.pow_zero, Nat.div_one]

theorem toNat_wordAt_one (x : DWord) : (wordAt x 1).toNat = x.toNat / 2 ^ 32 := by
  have hx := x.isLt
  rw [toNat_wordAt, Nat.mul_one, Nat.mod_eq_of_lt (by omega)]

/-- A 64-bit number from its two halves. -/
theorem toNat_eq_halves (x : DWord) : x.toNat = (wordAt x 1).toNat * 2 ^ 32 + (wordAt x 0).toNat := by
  rw [toNat_wordAt_zero, toNat_wordAt_one]
  omega

theorem toNat_setWordAt_zero (x : DWord) (v : Word) :
    (setWordAt x 0 v).toNat = x.toNat / 2 ^ 32 * 2 ^ 32 + v.toNat := by
  rw [toNat_eq_halves, wordAt_setWordAt x 0 v (by decide), wordAt_setWordAt_of_ne x 0 1 v (by decide), toNat_wordAt_one]

theorem toNat_setWordAt_one (x : DWord) (v : Word) :
    (setWordAt x 1 v).toNat = v.toNat * 2 ^ 32 + x.toNat % 2 ^ 32 := by
  rw [toNat_eq_halves, wordAt_setWordAt x 1 v (by decide), wordAt_setWordAt_of_ne x 1 0 v (by decide),
    toNat_wordAt_zero]

/-- The offsets of the length and capacity registers. -/
theorem lookup_lengths : registerMap.lookup 0x010 = some .aadLenLo ∧ registerMap.lookup 0x014 = some .aadLenHi
    ∧ registerMap.lookup 0x018 = some .dataLenLo ∧ registerMap.lookup 0x01C = some .dataLenHi
    ∧ registerMap.lookup 0x020 = some .outLenLo ∧ registerMap.lookup 0x024 = some .outLenHi
    ∧ registerMap.lookup 0x028 = some .capAad ∧ registerMap.lookup 0x02C = some .capData
    ∧ registerMap.lookup 0x030 = some .capOut := by decide

section
variable {s : State} {rest : List Turn} {off : Nat}

/-- A host write to a half of AAD_LEN on an idle block. -/
theorem step_write_aadLen {v : Word} {r : Reg} (k : Nat) (hr : (r = .aadLenLo ∧ k = 0) ∨ (r = .aadLenHi ∧ k = 1))
    (hl : registerMap.lookup off = some r) (hb : s.busy = false)
    (h : s.script = .write (Config.hw.base + off) v :: rest) :
    step s = .next { s with script := rest, response := .written, aadLen := setWordAt s.aadLen k v } := by
  rw [step_writeReg h hl]
  rcases hr with ⟨rfl, rfl⟩ | ⟨rfl, rfl⟩ <;> rw [writeReg, unlessBusy_idle (s := setScript rest s) hb] <;> rfl

/-- A host write to a half of DATA_LEN on an idle block. -/
theorem step_write_dataLen {v : Word} {r : Reg} (k : Nat) (hr : (r = .dataLenLo ∧ k = 0) ∨ (r = .dataLenHi ∧ k = 1))
    (hl : registerMap.lookup off = some r) (hb : s.busy = false)
    (h : s.script = .write (Config.hw.base + off) v :: rest) :
    step s = .next { s with script := rest, response := .written, dataLen := setWordAt s.dataLen k v } := by
  rw [step_writeReg h hl]
  rcases hr with ⟨rfl, rfl⟩ | ⟨rfl, rfl⟩ <;> rw [writeReg, unlessBusy_idle (s := setScript rest s) hb] <;> rfl

/-- A register reads as the number that its word holds. -/
theorem readReturns_of_lookup {r : Reg} {n : Nat} (hl : registerMap.lookup off = some r)
    (hn : (readReg Config.hw s r).toNat = n) (h : s.script = .read (Config.hw.base + off) :: rest) :
    ReadReturns s rest n :=
  ⟨_, step_readReg h hl, hn⟩

/-- OUT_LEN is at most OUT_CAP, so its high half is 0. -/
theorem Inv.outLen_high {c : Config} (hc : c.wellFormed = true) (h : Inv c s) : s.outLen.toNat / 2 ^ 32 = 0 := by
  obtain ⟨-, -, ⟨-, -, hcap⟩, -⟩ := (Config.wellFormed_iff c).1 hc
  have hlen := h.buffers.outFits
  omega

end

theorem toNat_cap {n : Nat} (h : n ≤ 2 ^ 22) : (BitVec.ofNat 32 n).toNat = n := by
  rw [BitVec.toNat_ofNat, Nat.mod_eq_of_lt (by omega)]

/-- Settles O16: a write replaces one of the two words that make up the number, a read returns one. -/
theorem lengthHalvesAreIndependent : Obligations.LengthHalvesAreIndependent := by
  intro s v rest
  obtain ⟨haadLo, haadHi, hdataLo, hdataHi, houtLo, houtHi, hcapAad, hcapData, hcapOut⟩ := lookup_lengths
  obtain ⟨⟨-, -, hA⟩, ⟨-, -, hD⟩, ⟨-, -, hO⟩, -⟩ := (Config.wellFormed_iff _).1 Config.hw_wellFormed
  refine ⟨fun hb h => ?_, fun hb h => ?_, fun hb h => ?_, fun hb h => ?_, ?_, ?_, ?_, ?_, ?_, ?_, fun hinv => ?_, ?_,
    ?_, ?_⟩
  · exact ⟨_, step_write_aadLen 0 (.inl ⟨rfl, rfl⟩) haadLo hb h, rfl, toNat_setWordAt_zero _ v⟩
  · exact ⟨_, step_write_aadLen 1 (.inr ⟨rfl, rfl⟩) haadHi hb h, rfl, toNat_setWordAt_one _ v⟩
  · exact ⟨_, step_write_dataLen 0 (.inl ⟨rfl, rfl⟩) hdataLo hb h, rfl, toNat_setWordAt_zero _ v⟩
  · exact ⟨_, step_write_dataLen 1 (.inr ⟨rfl, rfl⟩) hdataHi hb h, rfl, toNat_setWordAt_one _ v⟩
  · exact readReturns_of_lookup haadLo (toNat_wordAt_zero _)
  · exact readReturns_of_lookup haadHi (toNat_wordAt_one _)
  · exact readReturns_of_lookup hdataLo (toNat_wordAt_zero _)
  · exact readReturns_of_lookup hdataHi (toNat_wordAt_one _)
  · exact readReturns_of_lookup houtLo (toNat_wordAt_zero _)
  · exact readReturns_of_lookup houtHi (toNat_wordAt_one _)
  · exact readReturns_of_lookup houtHi ((toNat_wordAt_one _).trans (hinv.outLen_high Config.hw_wellFormed))
  · exact readReturns_of_lookup hcapAad (toNat_cap (by omega))
  · exact readReturns_of_lookup hcapData (toNat_cap (by omega))
  · exact readReturns_of_lookup hcapOut (toNat_cap hO)

/-! ### What a read shows -/

theorem readTarget_of_sameButHidden {c : Config} {s t : State} (h : SameButHidden s t) (tgt : Target) :
    readTarget c t tgt = readTarget c s tgt := by
  rw [h]
  cases tgt with
  | reg r => cases r <;> rfl
  | aad | data | out => rfl

/-- Settles O18: the word an address names is packed from fields in which the two states agree. -/
theorem readsIndependentOfHiddenState : Obligations.ReadsIndependentOfHiddenState := by
  intro s t s' addr rest hsame hs he
  have ht : t.script = .read addr :: rest := by rw [hsame]; exact hs
  rw [step, stepWith_cons hs] at he
  obtain ⟨off, tgt, ho, htgt, rfl⟩ := hostAccess_next he
  refine ⟨respond (.data (readTarget Config.hw (setScript rest t) tgt)) (setScript rest t), ?_, ?_⟩
  · rw [step, stepWith_cons ht]
    exact hostAccess_eq _ ho htgt
  · rw [respond_response, respond_response, readTarget_setScript, readTarget_setScript,
      readTarget_of_sameButHidden hsame]

/-- A word of an output buffer with nothing listed. -/
theorem bufferWord_zero_nil (off : Nat) : bufferWord zeroUnlisted [] off = 0#32 := rfl

/-- Settles O19: by the invariant a running block has no output and its result fields are at their reset values. -/
theorem outputsReadZeroWhileBusy : Obligations.OutputsReadZeroWhileBusy := by
  intro s off rest hinv hb h
  obtain ⟨hout, hlen, htag⟩ := hinv.hidden.busyNoOutput hb
  obtain ⟨hdone, herr, hcause⟩ := hinv.flags.clearWhileBusy hb
  obtain ⟨-, -, -, -, hlenLo, hlenHi, -⟩ := lookup_lengths
  refine ⟨fun hoff => ?_, fun hoff => ?_⟩
  · rcases hoff with rfl | rfl | ⟨h4, hlo, hhi⟩ | ⟨h4, hlo, hhi⟩
    · rw [step_readReg h hlenLo, readReg, hlen]
      rfl
    · rw [step_readReg h hlenHi, readReg, hlen]
      rfl
    · obtain ⟨i, rfl⟩ : ∃ i, off = 0x080 + 4 * i := ⟨(off - 0x080) / 4, by omega⟩
      rw [step_readReg h (lookup_tagOut ⟨i, by omega⟩), readReg, htag, wordAt, BitVec.extractLsb'_zero]
    · obtain ⟨i, rfl⟩ : ∃ i, off = 0x400000 + 4 * i := ⟨(off - 0x400000) / 4, by omega⟩
      rw [step_readTarget h (targetOf_out Config.hw_wellFormed (by omega)), readTarget, hout, bufferWord_zero_nil]
  · subst hoff
    obtain ⟨hbit0, hbit1, -, -⟩ := statusWord_flags s
    obtain ⟨hfErr, hfCause, -, -⟩ := statusWord_fields s
    refine ⟨_, step_readReg h lookup_status, hbit0.trans hb, hbit1.trans hdone, ?_, ?_⟩
    · rw [readReg, hfErr, herr]
      rfl
    · rw [readReg, hfCause, hcause]
      rfl

/-! ### What a host access leaves alone -/

/-- On a running block a write of flags and operands leaves all but IRQ_EN and OVERRUN. -/
theorem sameCommand_hostWritten {s u : State} (hb : s.busy = true) (hw : HostWritten s u) (hdone : u.done = s.done) :
    SameCommand s (respond .written u) := by
  obtain ⟨hf, hbusy⟩ := hw
  obtain ⟨⟨hkey, hnonce, htag⟩, ⟨haadLen, hdataLen⟩, haad, hin, -⟩ := hbusy hb
  rw [hf, hkey, hnonce, htag, haadLen, hdataLen, haad, hin, hdone]
  rfl

/-- Settles O53: a read only answers, and a write to a running block is ignored or is one of CTRL, CMD, STATUS. -/
theorem hostAccessKeepsRunningCommand : Obligations.HostAccessKeepsRunningCommand := by
  intro s t turn rest hinv hb hs hturn he
  rw [step, stepWith_cons hs] at he
  have hinv' := inv_setScript hinv rest
  rcases hturn with ⟨addr, rfl⟩ | ⟨addr, v, rfl, hv⟩
  · rw [hostRead_next he]
    rfl
  · have hinvT := inv_hostWrite Config.hw_wellFormed hinv' he
    obtain ⟨u, rfl, ⟨hreset, -⟩ | ⟨hidle, -⟩ | hw⟩ := hostWrite_cases he
    · exact absurd (hreset.symm.trans hv) (by decide)
    · exact absurd (hidle.symm.trans hb) (by decide)
    · have hbu : u.busy = true := by rw [hw.1]; exact hb
      exact sameCommand_hostWritten (s := setScript rest s) hb hw
        ((hinvT.done_of_busy hbu).trans (hinv'.done_of_busy hb).symm)

theorem sameOutputs_hostWritten {s u : State} (hw : HostWritten s u) : SameOutputs s u := by
  rw [hw.1]
  exact ⟨rfl, rfl, rfl, rfl, rfl⟩

/-- Settles O54: an idle block leaves IDLE only by an accept, which sets BUSY, and no other write reaches an output. -/
theorem committedResultStays : Obligations.CommittedResultStays := by
  intro s t hinv hb he ht hpower hsoft
  rw [step_eq_stepOn, stepOn] at he
  have hidle := hinv.idle hb
  cases hs : s.script with
  | nil =>
    rw [stepWith_nil hs, sequencerTurn_idle hidle] at he
    cases he
    exact ⟨rfl, rfl, rfl, rfl, rfl⟩
  | cons turn rest =>
    rw [stepWith_cons hs] at he
    cases turn with
    | read addr => rw [hostRead_next he]; exact ⟨rfl, rfl, rfl, rfl, rfl⟩
    | write addr v =>
      obtain ⟨u, rfl, ⟨hreset, -⟩ | ⟨-, rfl⟩ | hw⟩ := hostWrite_cases he
      · exact absurd (hreset.symm.trans (hsoft addr v rest hs)) (by decide)
      · exact absurd ht (by simp)
      · have hout : SameOutputs (setScript rest s) u := sameOutputs_hostWritten hw
        exact hout
    | sequencer =>
      rw [takeTurn, sequencerTurn_idle (s := setScript rest s) hidle] at he
      cases he
      exact ⟨rfl, rfl, rfl, rfl, rfl⟩
    | powerOnReset => exact absurd hs (hpower rest)

end Sys2Proof.Machine

/-! The statements about the resets (10_state.md section 8, 70_reset_and_hazards.md section 1) and the words that are no
command (30_encoding.md R122). -/

namespace Sys2Proof.Machine

/-! ### The resets -/

theorem irq_of_atResetValues {s : State} (h : AtResetValues s) : irq s = false := by
  obtain ⟨⟨hirq, -⟩, -⟩ := h
  rw [irq, hirq, Bool.false_and]

theorem atResetValues_reset : AtResetValues State.reset := by simp [AtResetValues]

/-- With no turn to come and nothing to do, the block stays as it is. -/
theorem step_idle {s : State} (hs : s.script = []) (hp : s.phase = .idle) : step s = .next s := by
  rw [step, stepWith_nil hs, sequencerTurn_idle hp]

/-- Settles O1: the pulse is `powerOnReset`, which empties every buffer and leaves the phase IDLE. -/
theorem powerOnResetLeavesResetValues : Obligations.PowerOnResetLeavesResetValues := by
  intro s rest hs
  have hvalues : AtResetValues (powerOnReset (setScript rest s)) := atResetValues_powerOnReset
  refine ⟨powerOnReset (setScript rest s), ?_, hvalues, rfl, rfl, fun _ => rfl, fun _ => rfl, fun _ => ⟨rfl, rfl⟩,
    irq_of_atResetValues hvalues, step_idle rfl rfl⟩
  rw [step, stepWith_cons hs, takeTurn]

/-- Settles O2: `State.reset` is the reset values, with nothing listed in its buffers. -/
theorem resetStateHoldsResetValues : Obligations.ResetStateHoldsResetValues :=
  ⟨atResetValues_reset, rfl, irq_of_atResetValues atResetValues_reset, fun _ => rfl, fun _ => rfl, fun _ => rfl⟩

/-- Settles O48: both invariants hold in every state at the reset values, whose input buffers are canonical. -/
theorem invariantsHoldAtReset : Obligations.InvariantsHoldAtReset :=
  ⟨inv_of_atResetValues atResetValues_reset ⟨rfl, rfl⟩ ⟨rfl, rfl⟩, verifyFirst_of_atResetValues atResetValues_reset⟩

/-- Settles O3: bit 1 selects the soft reset, which keeps the two input buffers and the draws. -/
theorem softResetAbortsAndClears : Obligations.SoftResetAbortsAndClears := by
  intro s v rest hs hv
  have hvalues : AtResetValues (softReset (setScript rest s)) := atResetValues_softReset
  refine ⟨respond .written (softReset (setScript rest s)), ?_, hvalues, rfl, fun _ => ⟨rfl, rfl⟩, rfl, rfl,
    irq_of_atResetValues hvalues⟩
  rw [step_writeReg hs lookup_ctrl, writeReg, ctrlWrite_reset _ hv]

end Sys2Proof.Machine

namespace Sys2Proof

/-! ### Words that are no command -/

/-- Settles O20, by evaluation of the decoder on the ten words. -/
theorem commandWordsDecode : Obligations.CommandWordsDecode := by
  unfold Obligations.CommandWordsDecode
  decide

/-- Settles O22: the three cases of the decoder exclude each other. -/
theorem otherWordsAreIllegal : Obligations.OtherWordsAreIllegal := by
  intro w
  rcases decode_cases w with ⟨hrsv, hd⟩ | ⟨hrsv, hop, hd⟩ | ⟨i, rfl, hd⟩ <;> rw [hd]
  · simp [hrsv]
  · simp [hrsv, hop]
  · simpa [Nat.div_eq_of_lt (encode_toNat_lt i)] using encode_opcode_assigned i

end Sys2Proof

/-! The statements about one step of a command: that the sequencer's turn is the latched command's step, which phases a
command has a step in, and what that step leaves alone (10_state.md sections 2 to 4, 00_scope.md section 4). -/

namespace Sys2Proof.Machine

/-! ### The step is the latched command's -/

/-- Settles O23: in both forms the turn is the sequencer's, outside IDLE. -/
theorem stepRunsTheLatchedCommand : Obligations.StepRunsTheLatchedCommand := by
  intro s i hp hd
  refine ⟨fun hs => ?_, fun rest hs => ?_⟩
  · rw [step, stepWith_nil hs, sequencerTurn_command hp hd]
  · rw [step, stepWith_cons hs, takeTurn, sequencerTurn_command (s := setScript rest s) hp hd]
    rfl

section
variable {M : Host.Core} {n : Nat} {s : M.State}

theorem run_succ_of_next {t : M.State} (h : M.step s = .next t) : M.run (n + 1) s = M.run n t := by
  rw [Host.Core.run, h]

theorem run_succ_of_fault {r : M.Fault} (h : M.step s = .fault r) : M.run (n + 1) s = .fault r := by
  rw [Host.Core.run, h]

theorem run_succ_of_refused {r : M.Refusal} (h : M.step s = .refused r) : M.run (n + 1) s = .refused r := by
  rw [Host.Core.run, h]

end

theorem core_run_eq_runOn (n : Nat) (s : State) : Sys2Proof.core.run n s = runOn Config.hw n s := by
  induction n generalizing s with
  | zero => rfl
  | succ n ih =>
    have hcore : Sys2Proof.core.step s = stepOn Config.hw s := step_eq_stepOn s
    rw [runOn]
    cases hstep : stepOn Config.hw s with
    | next t => exact (run_succ_of_next (hcore.trans hstep)).trans (ih t)
    | fault r => exact run_succ_of_fault (hcore.trans hstep)
    | refused r => exact run_succ_of_refused (hcore.trans hstep)

/-- Settles O24: the dispatch arm by arm, then the run step by step. -/
theorem hardwareIsItsConfiguration : Obligations.HardwareIsItsConfiguration := ⟨exec_eq_execOn, core_run_eq_runOn⟩

/-- A command's step on an idle block is the accept of its word. -/
theorem exec_idle {s : State} (i : Instr) (h : s.phase = .idle) : exec i s = .next (accept (encode i) s) := by
  cases i with
  | encrypt => simp only [exec, execEncrypt, encryptOn, h]
  | decrypt => simp only [exec, execDecrypt, decryptOn, h]
  | pad => simp only [exec, execPad, padOn, h]
  | deriveKey => simp only [exec, execDeriveKey, deriveKeyOn, h]

/-- The word of a command, handed over as its 32 bits, is the command's word. -/
theorem ofNat_encode (i : Instr) : BitVec.ofNat 32 ((encode i).toNat % 2 ^ 32) = encode i := by
  cases i <;> rfl

/-- Settles O25: both sides are the accept of the command's word; after it the latched word selects the command. -/
theorem commandStartsByItsWord : Obligations.CommandStartsByItsWord := by
  intro s i
  refine ⟨fun rest hp hb hs => ?_, ?_⟩
  · rw [exec_idle (s := { s with script := rest, response := .written }) i hp, step_writeReg hs lookup_cmd, writeReg,
      cmdWrite_idle (s := setScript rest s) (encode i) hb]
    rfl
  · rw [State.withFetchWord, ofNat_encode]
    exact (stepRunsTheLatchedCommand (accept (encode i) (setScript [] s)) i (by simp) (decode_encode i)).1 rfl

/-- Settles O26: the accept, field by field. -/
theorem eachCommandAcceptsWhenIdle : Obligations.EachCommandAcceptsWhenIdle := by
  intro i s hp
  refine ⟨_, exec_idle i hp, ?_, fun _ => rfl⟩
  cases i <;> rfl

/-! ### Which phases a command has a step in -/

section
variable {c : Config} {s t : State}

/-- A command answers in the phases it reaches and stops in the others (10_state.md R68). -/
theorem execOn_answers (i : Instr) (h : s.phase ≠ .idle) :
    (reaches (.command i) s.phase = true ∧ ∃ t, execOn c i s = .next t)
    ∨ (reaches (.command i) s.phase = false ∧ execOn c i s = .fault .phaseNotReached) := by
  cases i with
  | encrypt => cases hp : s.phase <;> simp_all [execOn, encryptOn, reaches]
  | decrypt => cases hp : s.phase <;> simp_all [execOn, decryptOn, reaches]
  | pad => cases hp : s.phase <;> simp_all [execOn, padOn, reaches]
  | deriveKey => cases hp : s.phase <;> simp_all [execOn, deriveKeyOn, reaches]

theorem illegalStep_answers (why : Illegal) (hreach : reaches (.illegal why) s.phase = true) :
    ∃ t, illegalStep why s = .next t := by
  cases hp : s.phase with
  | check => exact ⟨_, illegalStep_check why hp⟩
  | commit => exact ⟨_, illegalStep_commit why hp⟩
  | idle | keygen | cipher | mac | compare | padout => simp [hp, reaches] at hreach

/-- In a state that meets the invariant the sequencer's turn answers. -/
theorem Inv.sequencerTurn_answers (h : Inv c s) : ∃ t, sequencerTurn (execOn c) s = .next t := by
  by_cases hi : s.phase = .idle
  · exact ⟨s, sequencerTurn_idle hi⟩
  · have hreach := h.command.phaseReached.resolve_left hi
    cases hd : decode s.cmdw with
    | command i =>
      rw [hd] at hreach
      rw [sequencerTurn_command hi hd]
      rcases execOn_answers i hi with ⟨-, h⟩ | ⟨hn, -⟩
      · exact h
      · exact absurd (hreach.symm.trans hn) (by decide)
    | illegal why =>
      rw [sequencerTurn_illegal hi hd]
      exact illegalStep_answers why (hd ▸ hreach)

end

/-- Settles O34: a command's step outside IDLE answers or stops as the table of phases says. -/
theorem unreachedPhasesFault : Obligations.UnreachedPhasesFault := by
  intro i s hp
  rw [exec_eq_execOn]
  rcases execOn_answers (c := Config.hw) i hp with ⟨hreach, t, he⟩ | ⟨hreach, he⟩ <;> simp [hreach, he]

/-- Settles O51: by the invariant the phase is one the latched word reaches. -/
theorem sequencerAlwaysSteps : Obligations.SequencerAlwaysSteps := by
  intro s hinv hs
  rw [step_eq_stepOn, stepOn]
  rcases hs with hs | ⟨rest, hs⟩
  · rw [stepWith_nil hs]
    exact hinv.sequencerTurn_answers
  · rw [stepWith_cons hs]
    exact (inv_setScript hinv rest).sequencerTurn_answers

/-! ### What a command's step leaves alone -/

/-- Settles O35: the inputs by the frame of each phase; no phase reaches the turns to come or the bus's answer. -/
theorem commandsKeepTheirOperands : Obligations.CommandsKeepTheirOperands := by
  intro i s t h
  rw [exec_eq_execOn] at h
  refine ⟨sameInputs_execOn h, ?_⟩
  by_cases hi : s.phase = .idle
  · rw [← exec_eq_execOn, exec_idle i hi] at h
    cases h
    exact ⟨rfl, rfl⟩
  · by_cases hc : s.phase = .commit
    · rw [execOn_commit i hc] at h
      cases h
      rw [commit_frame]
      exact ⟨rfl, rfl⟩
    · rw [workStep_execOn h hi hc]
      exact ⟨rfl, rfl⟩

/-- Settles O36: the outputs and STATUS are outside the frame of a running command. -/
theorem outputsChangeOnlyAtCommit : Obligations.OutputsChangeOnlyAtCommit := by
  intro i s t h hi hc
  rw [exec_eq_execOn] at h
  rw [workStep_execOn h hi hc]
  exact ⟨⟨rfl, rfl, rfl, rfl, rfl⟩, rfl⟩

/-! ### PADOUT and COMPARE -/

theorem execOn_pad_padout {c : Config} {s : State} (h : s.phase = .padout) :
    execOn c .pad s = .next (padOut c s) := by
  simp only [execOn, padOn, h]

/-- The stage after PADOUT: the padded message, and beyond it what stood there. -/
theorem stageByte_padOut (c : Config) (s : State) (a : Nat) : stageByte (padOut c s) a =
    if h : a < (padMessage (aadOperand c s) (dataOperand c s)).length then
      (padMessage (aadOperand c s) (dataOperand c s))[a] else stageByte s a :=
  stageByte_putStage _ s a

theorem padOut_stageLen (c : Config) (s : State) : (padOut c s).stageLen = padLength s :=
  length_padMessage_operands

/-- Settles O32: PADOUT stages exactly the padded message. -/
theorem padoutPhaseStagesThePaddedMessage : Obligations.PadoutPhaseStagesThePaddedMessage := by
  intro s hp
  have hlen : (padOut Config.hw s).stageLen = (padMessage (aadOperand Config.hw s) (dataOperand Config.hw s)).length :=
    rfl
  refine ⟨padOut Config.hw s, ?_, ?_, ?_, fun a ha => ?_⟩
  · rw [exec_eq_execOn, execOn_pad_padout hp]
  · have hpad : ru16 s.aadLen.toNat + ru16 s.dataLen.toNat + 16 = (padOut Config.hw s).stageLen :=
      (padOut_stageLen Config.hw s).symm
    rw [hpad]
    rfl
  · rw [← aadOperand_eq, ← dataOperand_eq, ← stageBytes_eq, hlen]
    exact readBytes_writeBytes s.stage _
  · rw [stageByte_padOut, dif_neg (hlen ▸ ha.not_gt)]

/-- Settles O56: COMPARE reads the tags by the comparator's one bit only. -/
theorem compareTakesOneStepForAllTags : Obligations.CompareTakesOneStepForAllTags := by
  intro s t hp ht hbit
  have hpT : t.phase = .compare := by rw [ht]; exact hp
  refine ⟨compareTags s, compareTags t, ?_, ?_, ?_⟩
  · rw [exec_eq_execOn, execOn_decrypt_compare hp]
  · rw [exec_eq_execOn, execOn_decrypt_compare hpT]
  · cases hs : ctEq16 s.expTag s.tagIn with
    | true =>
      have hcs : compareTags s = goTo .cipher s := if_pos hs
      have hct : compareTags t = goTo .cipher t := if_pos (hbit.symm.trans hs)
      rw [hcs, hct]
      exact ⟨by simp, congrArg (goTo .cipher) ht, rfl⟩
    | false =>
      have hcs : compareTags s = fail .authenticationFailure .tagMismatch s := if_neg (by simp [hs])
      have hct : compareTags t = fail .authenticationFailure .tagMismatch t := if_neg (by simp [← hbit, hs])
      rw [hcs, hct]
      exact ⟨by simp, congrArg (fail .authenticationFailure .tagMismatch) ht, rfl⟩

/-! ### The table of phases with what each command does in each -/

/-- Command `i` does `f` in phase `p` (10_state.md R68; IDLE is the accept, log entry 2). -/
inductive PhaseAction (c : Config) : Instr → Phase → (State → State) → Prop
  | accept (i : Instr) : PhaseAction c i .idle (accept (encode i))
  | checkEncrypt : PhaseAction c .encrypt .check (checkLengths c (goTo .keygen))
  | checkDecrypt : PhaseAction c .decrypt .check (checkLengths c (goTo .keygen))
  | checkPad : PhaseAction c .pad .check (checkLengths c (checkPadLength c))
  | checkDeriveKey : PhaseAction c .deriveKey .check (goTo .keygen)
  | keygenEncrypt : PhaseAction c .encrypt .keygen fun s => goTo .cipher (keygen c s)
  | keygenDecrypt : PhaseAction c .decrypt .keygen fun s => goTo .mac (keygen c s)
  | keygenDeriveKey : PhaseAction c .deriveKey .keygen fun s => deriveKeyStaged (keygen c s)
  | cipherEncrypt : PhaseAction c .encrypt .cipher (cipher c .encryptionFailure (goTo .mac))
  | cipherDecrypt : PhaseAction c .decrypt .cipher (cipher c .decryptionFailure decryptStaged)
  | macEncrypt : PhaseAction c .encrypt .mac (encryptMac c)
  | macDecrypt : PhaseAction c .decrypt .mac (decryptMac c)
  | compare : PhaseAction c .decrypt .compare compareTags
  | padout : PhaseAction c .pad .padout (padOut c)
  | commit (i : Instr) : PhaseAction c i .commit commit

theorem PhaseAction.execOn {c : Config} {i : Instr} {p : Phase} {f : State → State} {s : State}
    (h : PhaseAction c i p f) (hp : s.phase = p) : execOn c i s = .next (f s) := by
  cases h with
  | accept i => cases i <;> simp only [Machine.execOn, encryptOn, decryptOn, padOn, deriveKeyOn, hp]
  | checkEncrypt | keygenEncrypt | cipherEncrypt | macEncrypt => simp only [Machine.execOn, encryptOn, hp]
  | checkDecrypt | keygenDecrypt | cipherDecrypt | macDecrypt | compare => simp only [Machine.execOn, decryptOn, hp]
  | checkPad | padout => simp only [Machine.execOn, padOn, hp]
  | checkDeriveKey | keygenDeriveKey => simp only [Machine.execOn, deriveKeyOn, hp]
  | commit i => exact execOn_commit i hp

/-- A command's step is its entry in the table. -/
theorem exists_phaseAction {c : Config} {i : Instr} {s t : State} (h : execOn c i s = .next t) :
    ∃ f, PhaseAction c i s.phase f ∧ t = f s := by
  rcases execOn_next h with ⟨hp, rfl⟩ | ⟨hp, rfl | rfl, rfl⟩ | ⟨hp, rfl, rfl⟩ | ⟨hp, rfl, rfl⟩ | ⟨hp, rfl, rfl⟩
    | ⟨hp, rfl, rfl⟩ | ⟨hp, rfl, rfl⟩ | ⟨hp, rfl, rfl⟩ | ⟨hp, rfl, rfl⟩ | ⟨hp, rfl, rfl⟩ | ⟨hp, rfl, rfl⟩
    | ⟨hp, rfl, rfl⟩ | ⟨hp, rfl, rfl⟩ | ⟨hp, rfl⟩ <;> rw [hp]
  · exact ⟨_, .accept i, rfl⟩
  · exact ⟨_, .checkEncrypt, rfl⟩
  · exact ⟨_, .checkDecrypt, rfl⟩
  · exact ⟨_, .checkPad, rfl⟩
  · exact ⟨_, .checkDeriveKey, rfl⟩
  · exact ⟨_, .keygenEncrypt, rfl⟩
  · exact ⟨_, .keygenDecrypt, rfl⟩
  · exact ⟨_, .keygenDeriveKey, rfl⟩
  · exact ⟨_, .cipherEncrypt, rfl⟩
  · exact ⟨_, .cipherDecrypt, rfl⟩
  · exact ⟨_, .macEncrypt, rfl⟩
  · exact ⟨_, .macDecrypt, rfl⟩
  · exact ⟨_, .compare, rfl⟩
  · exact ⟨_, .padout, rfl⟩
  · exact ⟨_, .commit i, rfl⟩

/-! ### The host's own fields do not enter a command's step -/

/-- `s` with the fields that a host may change while a command runs taken from `t` (20_memory.md R91, R96). -/
def withHostFields (t s : State) : State :=
  { s with irqEn := t.irqEn, overrun := t.overrun, script := t.script, response := t.response }

theorem sameCommand_withHostFields (t s : State) : SameCommand s (withHostFields t s) := rfl

section
variable {c : Config} {s t : State}

theorem checkLengths_withHostFields {ok : State → State} (hok : ok (withHostFields t s) = withHostFields t (ok s)) :
    checkLengths c ok (withHostFields t s) = withHostFields t (checkLengths c ok s) := by
  rw [checkLengths, checkLengths, hok, apply_ite (withHostFields t), apply_ite (withHostFields t)]
  rfl

theorem checkPadLength_withHostFields :
    checkPadLength c (withHostFields t s) = withHostFields t (checkPadLength c s) := by
  rw [checkPadLength, checkPadLength, apply_ite (withHostFields t)]
  rfl

theorem compareTags_withHostFields : compareTags (withHostFields t s) = withHostFields t (compareTags s) := by
  rw [compareTags, compareTags, apply_ite (withHostFields t)]
  rfl

theorem cipher_withHostFields {e : Err} {next : State → State}
    (hnext : ∀ u, next (withHostFields t u) = withHostFields t (next u)) :
    cipher c e next (withHostFields t s) = withHostFields t (cipher c e next s) := by
  have hsame : scApply c (withHostFields t s).key (withHostFields t s).nonce 1#64 (dataOperand c (withHostFields t s)) =
    scApply c s.key s.nonce 1#64 (dataOperand c s) := rfl
  unfold cipher
  rw [hsame]
  cases scApply c s.key s.nonce 1#64 (dataOperand c s) with
  | none => rfl
  | some r => exact hnext (putStage r (logEvent (.apply s.key s.nonce 1#64 (dataOperand c s) .ok) s))

theorem commit_withHostFields : commit (withHostFields t s) = withHostFields t (commit s) := by
  rcases commit_cases s with ⟨hok, hcase⟩ | ⟨hfail, hcase⟩ <;> rw [hcase]
  · exact commit_ok (s := withHostFields t s) hok
  · exact commit_failed (s := withHostFields t s) hfail

/-- What a command does in a phase commutes with a change of the host's fields. -/
theorem PhaseAction.withHostFields {i : Instr} {p : Phase} {f : State → State} (h : PhaseAction c i p f) :
    f (withHostFields t s) = Sys2Proof.Machine.withHostFields t (f s) := by
  cases h with
  | accept | checkDeriveKey | keygenEncrypt | keygenDecrypt | keygenDeriveKey | macEncrypt | macDecrypt | padout => rfl
  | checkEncrypt | checkDecrypt => exact checkLengths_withHostFields rfl
  | checkPad => exact checkLengths_withHostFields checkPadLength_withHostFields
  | cipherEncrypt | cipherDecrypt => exact cipher_withHostFields fun _ => rfl
  | compare => exact compareTags_withHostFields
  | commit => exact commit_withHostFields

end

/-- Settles O55: the step commutes with a change of those fields. -/
theorem commandIgnoresHostFields : Obligations.CommandIgnoresHostFields := by
  intro i s t s' hsame h
  rw [exec_eq_execOn] at h
  obtain ⟨f, hf, rfl⟩ := exists_phaseAction h
  have ht : t = withHostFields t s := hsame
  have hp : t.phase = s.phase := by rw [ht]; rfl
  refine ⟨withHostFields t (f s), ?_, sameCommand_withHostFields t (f s)⟩
  rw [exec_eq_execOn, hf.execOn hp, ← hf.withHostFields, ← ht]

end Sys2Proof.Machine

/-! Running commands to their commit (70_reset_and_hazards.md section 4, 42_encrypt.md R193): a command's turns are
counted, and two blocks that agree on what the command reads stay in step until both commit. -/

namespace Sys2Proof.Machine

section
variable {c : Config} {s t u v : State}

/-! ### Counting turns -/

/-- How many sequencer turns a command has before it, this one included, at most (10_state.md R68). -/
def turnsLeft : Decoded → Phase → Nat
  | _, .idle => 0
  | _, .commit => 1
  | .illegal _, .check => 2
  | .command .encrypt, .check => 5
  | .command .encrypt, .keygen => 4
  | .command .encrypt, .cipher => 3
  | .command .encrypt, .mac => 2
  | .command .decrypt, .check => 6
  | .command .decrypt, .keygen => 5
  | .command .decrypt, .mac => 4
  | .command .decrypt, .compare => 3
  | .command .decrypt, .cipher => 2
  | .command .pad, .check => 3
  | .command .pad, .padout => 2
  | .command .deriveKey, .check => 3
  | .command .deriveKey, .keygen => 2
  | _, _ => 0

theorem turnsLeft_le (d : Decoded) (p : Phase) : turnsLeft d p ≤ 6 := by
  rcases d with i | why
  · cases i <;> cases p <;> decide
  · cases why <;> cases p <;> decide

theorem turnsLeft_pos {d : Decoded} {p : Phase} (h : reaches d p = true) : 0 < turnsLeft d p := by
  rcases d with i | why
  · cases i <;> cases p <;> revert h <;> decide
  · cases why <;> cases p <;> revert h <;> decide

theorem checkLengths_phase {ok : State → State} {p : Phase} (hok : (ok s).phase = p ∨ (ok s).phase = .commit) :
    (checkLengths c ok s).phase = p ∨ (checkLengths c ok s).phase = .commit := by
  rcases checkLengths_cases c ok s with ⟨-, h⟩ | ⟨-, -, h⟩ | ⟨-, -, h⟩ <;> rw [h]
  · exact .inr rfl
  · exact .inr rfl
  · exact hok

/-- Every turn of a running command brings it nearer to its end. -/
theorem PhaseAction.turnsLeft_lt {i : Instr} {p : Phase} {f : State → State} (h : PhaseAction c i p f)
    (hi : p ≠ .idle) : turnsLeft (.command i) (f s).phase < turnsLeft (.command i) p := by
  cases h with
  | accept => exact absurd rfl hi
  | checkEncrypt | checkDecrypt =>
    have hcheck : (goTo .keygen s).phase = .keygen ∨ (goTo .keygen s).phase = .commit := .inl rfl
    rcases checkLengths_phase (c := c) hcheck with h | h <;> rw [h] <;> decide
  | checkPad =>
    have hpad : (checkPadLength c s).phase = .padout ∨ (checkPadLength c s).phase = .commit := by
      rcases checkPadLength_cases c s with ⟨-, h⟩ | ⟨-, h⟩ <;> simp [h]
    rcases checkLengths_phase hpad with h | h <;> rw [h] <;> decide
  | checkDeriveKey | keygenEncrypt | keygenDecrypt => simp [turnsLeft]
  | keygenDeriveKey => simp [turnsLeft, deriveKeyStaged]
  | cipherEncrypt =>
    rcases cipher_cases c .encryptionFailure (goTo .mac) s with ⟨-, h⟩ | ⟨r, -, h⟩ <;> simp [h, turnsLeft]
  | cipherDecrypt =>
    rcases cipher_cases c .decryptionFailure decryptStaged s with ⟨-, h⟩ | ⟨r, -, h⟩ <;>
      simp [h, turnsLeft, decryptStaged]
  | macEncrypt => simp [turnsLeft, encryptMac]
  | macDecrypt => simp [turnsLeft, decryptMac]
  | compare => rcases compareTags_cases s with ⟨-, h⟩ | ⟨-, h⟩ <;> simp [h, turnsLeft]
  | padout => simp [turnsLeft, padOut]
  | commit i => rw [commit_phase]; cases i <;> decide

/-- No command takes back what it logged. -/
theorem PhaseAction.log_grows {i : Instr} {p : Phase} {f : State → State} (h : PhaseAction c i p f) :
    s.log <+: (f s).log := by
  cases h with
  | checkEncrypt | checkDecrypt => rw [log_checkLengths rfl]
  | checkPad =>
    rw [log_checkLengths]
    rcases checkPadLength_cases c s with ⟨-, h⟩ | ⟨-, h⟩ <;> rw [h] <;> rfl
  | checkDeriveKey => exact List.prefix_rfl
  | accept | keygenEncrypt | keygenDecrypt | keygenDeriveKey | macEncrypt | macDecrypt => exact List.prefix_append _ _
  | cipherEncrypt =>
    rcases cipher_cases c .encryptionFailure (goTo .mac) s with ⟨-, h⟩ | ⟨r, -, h⟩ <;> rw [h] <;>
      exact List.prefix_append _ _
  | cipherDecrypt =>
    rcases cipher_cases c .decryptionFailure decryptStaged s with ⟨-, h⟩ | ⟨r, -, h⟩ <;> rw [h] <;>
      exact List.prefix_append _ _
  | compare => rcases compareTags_cases s with ⟨-, h⟩ | ⟨-, h⟩ <;> rw [h] <;> exact List.prefix_rfl
  | padout => exact List.prefix_rfl
  | commit => rw [commit_frame]; exact List.prefix_append _ _

/-! ### Two blocks that agree on what the command reads -/

/-- `s` and `t` agree on the phase, the latched word, the result and the hidden state. -/
def SameWork (s t : State) : Prop :=
  (t.phase = s.phase ∧ t.cmdw = s.cmdw ∧ t.result = s.result)
    ∧ (t.mackey = s.mackey ∧ t.expTag = s.expTag)
    ∧ (t.stage = s.stage ∧ t.stageLen = s.stageLen ∧ t.stageTag = s.stageTag)

theorem SameWork.refl (s : State) : SameWork s s := ⟨⟨rfl, rfl, rfl⟩, ⟨rfl, rfl⟩, rfl, rfl, rfl⟩

theorem SameWork.of_fail (h : SameWork s t) (e : Err) (cause : Cause) :
    SameWork (fail e cause s) (fail e cause t) := by
  obtain ⟨⟨-, hcmdw, -⟩, hkeys, hstage⟩ := h
  exact ⟨⟨rfl, hcmdw, rfl⟩, hkeys, hstage⟩

theorem SameWork.of_goTo (h : SameWork s t) (p : Phase) : SameWork (goTo p s) (goTo p t) := by
  obtain ⟨⟨-, hcmdw, hresult⟩, hkeys, hstage⟩ := h
  exact ⟨⟨rfl, hcmdw, hresult⟩, hkeys, hstage⟩

theorem SameWork.of_logEvent (h : SameWork s t) (e e' : Event) : SameWork (logEvent e s) (logEvent e' t) := h

theorem SameWork.of_putStage (h : SameWork s t) (bs : List Byte) : SameWork (putStage bs s) (putStage bs t) := by
  obtain ⟨hphase, hkeys, hstage, -, htag⟩ := h
  exact ⟨hphase, hkeys, congrArg (Memory.writeBytes zeroUnlisted · 0 bs) hstage, rfl, htag⟩

theorem SameWork.of_setStageTag (h : SameWork s t) (g : Tag) : SameWork (setStageTag g s) (setStageTag g t) := by
  obtain ⟨hphase, hkeys, hstage, hlen, -⟩ := h
  exact ⟨hphase, hkeys, hstage, hlen, rfl⟩

theorem SameWork.of_setExpTag (h : SameWork s t) (g : Tag) : SameWork (setExpTag g s) (setExpTag g t) := by
  obtain ⟨hphase, ⟨hkey, -⟩, hstage⟩ := h
  exact ⟨hphase, ⟨hkey, rfl⟩, hstage⟩

theorem SameWork.of_keygen (h : SameWork s t) (hkey : t.key = s.key) (hnonce : t.nonce = s.nonce) :
    SameWork (keygen c s) (keygen c t) := by
  obtain ⟨hphase, ⟨-, hexp⟩, hstage⟩ := h
  refine ⟨hphase, ⟨?_, hexp⟩, hstage⟩
  rw [keygen_mackey, keygen_mackey, hkey, hnonce]

theorem SameWork.of_deriveKeyStaged (h : SameWork s t) : SameWork (deriveKeyStaged s) (deriveKeyStaged t) := by
  obtain ⟨-, ⟨hkey, -⟩, -⟩ := id h
  unfold deriveKeyStaged
  rw [hkey]
  exact ((h.of_putStage _).of_setStageTag _).of_goTo _

theorem SameWork.of_checkLengths {ok : State → State} (h : SameWork s t) (hm : SameMessage c s t)
    (hok : SameWork (ok s) (ok t)) : SameWork (checkLengths c ok s) (checkLengths c ok t) := by
  obtain ⟨haad, hdata, -, -⟩ := hm
  unfold checkLengths
  rw [aadLength, aadLength, dataLength, dataLength, haad, hdata]
  split_ifs
  · exact h.of_fail _ _
  · exact h.of_fail _ _
  · exact hok

theorem SameWork.of_checkPadLength (h : SameWork s t) (hm : SameMessage c s t) :
    SameWork (checkPadLength c s) (checkPadLength c t) := by
  obtain ⟨haad, hdata, -, -⟩ := hm
  unfold checkPadLength
  rw [padLength, padLength, aadLength, aadLength, dataLength, dataLength, haad, hdata]
  split_ifs
  · exact h.of_fail _ _
  · exact h.of_goTo _

theorem SameWork.of_cipher {e : Err} {next : State → State} (h : SameWork s t) (hkey : t.key = s.key)
    (hnonce : t.nonce = s.nonce) (hm : SameMessage c s t)
    (hnext : ∀ {x y}, SameWork x y → SameWork (next x) (next y)) :
    SameWork (cipher c e next s) (cipher c e next t) := by
  obtain ⟨-, -, -, hdata⟩ := hm
  unfold cipher
  rw [hkey, hnonce, hdata]
  cases scApply c s.key s.nonce 1#64 (dataOperand c s) with
  | none => exact (h.of_logEvent _ _).of_fail _ _
  | some r => exact hnext ((h.of_logEvent _ _).of_putStage r)

theorem macTag_congr {ct ct' : List Byte} (h : SameWork s t) (hm : SameMessage c s t) (hct : ct' = ct) :
    macTag c ct' t = macTag c ct s := by
  obtain ⟨-, -, haad, -⟩ := hm
  obtain ⟨-, ⟨hkey, -⟩, -⟩ := h
  rw [macTag, macTag, macMessage, macMessage, haad, hkey, hct]

theorem SameWork.of_compareTags (h : SameWork s t) (htag : t.tagIn = s.tagIn) :
    SameWork (compareTags s) (compareTags t) := by
  obtain ⟨-, ⟨-, hexp⟩, -⟩ := id h
  unfold compareTags
  rw [hexp, htag]
  split_ifs
  · exact h.of_goTo _
  · exact h.of_fail _ _

/-- What a command does before its commit depends on its operands and its work alone (30_encoding.md R126). -/
theorem PhaseAction.sameWork {i : Instr} {p : Phase} {f : State → State} (hf : PhaseAction c i p f) (hi : p ≠ .idle)
    (hc : p ≠ .commit) (h : SameWork s t) (ho : SameOperands c (.command i) s t) : SameWork (f s) (f t) := by
  cases hf with
  | accept => exact absurd rfl hi
  | commit => exact absurd rfl hc
  | checkEncrypt =>
    obtain ⟨-, -, hm⟩ := ho
    exact h.of_checkLengths hm (h.of_goTo _)
  | checkDecrypt =>
    obtain ⟨-, -, -, hm⟩ := ho
    exact h.of_checkLengths hm (h.of_goTo _)
  | checkPad => exact h.of_checkLengths ho (h.of_checkPadLength ho)
  | checkDeriveKey => exact h.of_goTo _
  | keygenEncrypt =>
    obtain ⟨hkey, hnonce, -⟩ := ho
    exact (h.of_keygen hkey hnonce).of_goTo _
  | keygenDecrypt =>
    obtain ⟨hkey, hnonce, -⟩ := ho
    exact (h.of_keygen hkey hnonce).of_goTo _
  | keygenDeriveKey =>
    obtain ⟨hkey, hnonce⟩ := ho
    exact (h.of_keygen hkey hnonce).of_deriveKeyStaged
  | cipherEncrypt =>
    obtain ⟨hkey, hnonce, hm⟩ := ho
    exact h.of_cipher hkey hnonce hm fun hxy => hxy.of_goTo _
  | cipherDecrypt =>
    obtain ⟨hkey, hnonce, -, hm⟩ := ho
    exact h.of_cipher hkey hnonce hm fun hxy => (hxy.of_setStageTag _).of_goTo _
  | macEncrypt =>
    obtain ⟨-, -, hm⟩ := ho
    obtain ⟨-, -, hstage, -, -⟩ := id h
    obtain ⟨-, hlen, -, -⟩ := id hm
    have hct : stageBytes t (dataLength t) = stageBytes s (dataLength s) := by
      rw [stageBytes, stageBytes, hstage, dataLength, dataLength, hlen]
    unfold encryptMac
    rw [macTag_congr h hm hct]
    exact ((h.of_logEvent _ _).of_setStageTag _).of_goTo _
  | macDecrypt =>
    obtain ⟨-, -, -, hm⟩ := ho
    obtain ⟨-, -, -, hdata⟩ := id hm
    unfold decryptMac
    rw [macTag_congr h hm hdata]
    exact ((h.of_logEvent _ _).of_setExpTag _).of_goTo _
  | compare =>
    obtain ⟨-, -, htag, -⟩ := ho
    exact h.of_compareTags htag
  | padout =>
    obtain ⟨-, -, haad, hdata⟩ := ho
    unfold padOut
    rw [haad, hdata]
    exact ((h.of_putStage _).of_setStageTag _).of_goTo _

/-- Two commits of the same work over the same outputs leave the same outputs. -/
theorem sameOutputs_commit (h : SameWork s t) (hs : outputsZero s) (ht : outputsZero t) :
    SameOutputs (commit s) (commit t) := by
  obtain ⟨⟨-, -, hresult⟩, -, hstage, hlen, htag⟩ := h
  obtain ⟨hout, hol, hot⟩ := hs
  obtain ⟨hout', hol', hot'⟩ := ht
  rcases commit_cases s with ⟨hok, hc⟩ | ⟨hf, hc⟩
  · rw [hc, commit_ok (hresult ▸ hok)]
    simp [SameOutputs, stageBytes, hout, hout', hstage, hlen, htag, hresult]
  · rw [hc, commit_failed (hresult ▸ hf)]
    simp [SameOutputs, hout, hout', hol, hol', hot, hot', hresult]

/-! ### Both run to their commits -/

theorem SameOperands.refl (d : Decoded) (s : State) : SameOperands c d s s := by
  rcases d with i | why
  · cases i <;> simp [SameOperands, SameMessage]
  · trivial

/-- Operands stay in agreement as long as neither block's change. -/
theorem SameOperands.of_sameInputs {d : Decoded} (h : SameOperands c d s t) (hs : SameInputs s u)
    (ht : SameInputs t v) : SameOperands c d u v := by
  have haadS := aadOperand_of_sameInputs (c := c) hs
  have hdataS := dataOperand_of_sameInputs (c := c) hs
  have haadT := aadOperand_of_sameInputs (c := c) ht
  have hdataT := dataOperand_of_sameInputs (c := c) ht
  obtain ⟨⟨hkey, hnonce, htag, haadLen, hdataLen⟩, -⟩ := hs
  obtain ⟨⟨hkey', hnonce', htag', haadLen', hdataLen'⟩, -⟩ := ht
  rcases d with i | why
  · cases i <;> simpa [SameOperands, SameMessage, *] using h
  · trivial

theorem WorkStep.sameInputs (h : WorkStep s t) : SameInputs s t := by
  rw [h]
  exact SameInputs.refl s

/-- Two running blocks, with no host turn to come, that agree on their work and on what their command reads. -/
structure Twins (c : Config) (s t : State) : Prop where
  leftInv : Inv c s
  rightInv : Inv c t
  leftAlone : s.script = []
  rightAlone : t.script = []
  running : s.phase ≠ .idle
  work : SameWork s t
  operands : SameOperands c (decode s.cmdw) s t

theorem Twins.rightRunning (h : Twins c s t) : t.phase ≠ .idle := by
  obtain ⟨⟨hphase, -, -⟩, -, -⟩ := h.work
  rw [hphase]
  exact h.running

theorem Twins.refl (h : Inv c s) (hs : s.script = []) (hi : s.phase ≠ .idle) : Twins c s s :=
  ⟨h, h, hs, hs, hi, SameWork.refl s, SameOperands.refl _ s⟩

theorem stepOn_command {i : Instr} (hs : s.script = []) (hi : s.phase ≠ .idle) (hd : decode s.cmdw = .command i) :
    stepOn c s = execOn c i s := by
  rw [stepOn, stepWith_nil hs, sequencerTurn_command hi hd]

theorem stepOn_illegal {why : Illegal} (hs : s.script = []) (hi : s.phase ≠ .idle)
    (hd : decode s.cmdw = .illegal why) : stepOn c s = illegalStep why s := by
  rw [stepOn, stepWith_nil hs, sequencerTurn_illegal hi hd]

/-- The step of COMMIT, whatever the latched word. -/
theorem stepOn_commit (hs : s.script = []) (hp : s.phase = .commit) : stepOn c s = .next (commit s) := by
  have hi : s.phase ≠ .idle := by simp [hp]
  cases hd : decode s.cmdw with
  | command i => rw [stepOn_command hs hi hd, execOn_commit i hp]
  | illegal why => rw [stepOn_illegal hs hi hd, illegalStep_commit why hp]

/-- One pair of steps within their frames, if they keep the work in agreement. -/
theorem Twins.of_steps (hc : c.wellFormed = true) (h : Twins c s t) (hu : stepOn c s = .next u)
    (hv : stepOn c t = .next v) (hfu : WorkStep s u) (hfv : WorkStep t v) (hw : SameWork u v) :
    Twins c u v where
  leftInv := inv_stepOn hc h.leftInv hu
  rightInv := inv_stepOn hc h.rightInv hv
  leftAlone := by rw [hfu]; exact h.leftAlone
  rightAlone := by rw [hfv]; exact h.rightAlone
  running := by
    have hb : u.busy = true := by rw [hfu]; exact h.leftInv.busy h.running
    exact (inv_stepOn hc h.leftInv hu).flags.busyIffRunning.1 hb
  work := hw
  operands := by
    have hcmdw : u.cmdw = s.cmdw := by rw [hfu]
    rw [hcmdw]
    exact h.operands.of_sameInputs hfu.sameInputs hfv.sameInputs

theorem reaches_illegal {why : Illegal} {p : Phase} (h : reaches (.illegal why) p = true) :
    p = .check ∨ p = .commit := by
  cases p <;> simp_all [reaches]

/-- Before their commit both take a step, stay in agreement and get nearer to the commit. -/
theorem Twins.step (hc : c.wellFormed = true) (h : Twins c s t) (hp : s.phase ≠ .commit) :
    ∃ u v, stepOn c s = .next u ∧ stepOn c t = .next v ∧ Twins c u v ∧ s.log <+: u.log
      ∧ turnsLeft (decode u.cmdw) u.phase < turnsLeft (decode s.cmdw) s.phase := by
  have hi := h.running
  have hreach := h.leftInv.command.phaseReached.resolve_left hi
  obtain ⟨⟨hphase, hcmdw, -⟩, -, -⟩ := id h.work
  cases hd : decode s.cmdw with
  | command i =>
    obtain ⟨u, hu⟩ : ∃ u, execOn c i s = .next u := by
      rcases execOn_answers (c := c) i hi with ⟨-, hu⟩ | ⟨hn, -⟩
      · exact hu
      · rw [hd, hn] at hreach
        cases hreach
    obtain ⟨f, hf, rfl⟩ := exists_phaseAction hu
    have hv : execOn c i t = .next (f t) := hf.execOn hphase
    have hfu := workStep_execOn hu hi hp
    have hfv := workStep_execOn hv h.rightRunning (hphase ▸ hp)
    have hsu : stepOn c s = .next (f s) := (stepOn_command h.leftAlone hi hd).trans hu
    have hsv : stepOn c t = .next (f t) := (stepOn_command h.rightAlone h.rightRunning (hcmdw ▸ hd)).trans hv
    have hcmdwU : (f s).cmdw = s.cmdw := by rw [hfu]
    refine ⟨f s, f t, hsu, hsv, h.of_steps hc hsu hsv hfu hfv (hf.sameWork hi hp h.work (hd ▸ h.operands)),
      hf.log_grows, ?_⟩
    rw [hcmdwU, hd]
    exact hf.turnsLeft_lt hi
  | illegal why =>
    rw [hd] at hreach
    have hcheck : s.phase = .check := (reaches_illegal hreach).resolve_right hp
    have hsu := (stepOn_illegal (c := c) h.leftAlone hi hd).trans (illegalStep_check why hcheck)
    have hsv := (stepOn_illegal (c := c) h.rightAlone h.rightRunning (hcmdw ▸ hd)).trans
      (illegalStep_check why (hphase.trans hcheck))
    refine ⟨_, _, hsu, hsv, h.of_steps hc hsu hsv rfl rfl (h.work.of_fail _ _), List.prefix_rfl, ?_⟩
    rw [fail_cmdw, fail_phase, hd, hcheck]
    cases why <;> decide

theorem runOn_succ {n : Nat} (h : stepOn c s = .next t) : runOn c (n + 1) s = runOn c n t := by
  simp only [runOn, h]

/-- Both blocks are outside IDLE after `m` steps. -/
def BothRunning (c : Config) (m : Nat) (s t : State) : Prop :=
  ∃ u v, runOn c m s = .next u ∧ runOn c m t = .next v ∧ u.phase ≠ .idle ∧ v.phase ≠ .idle

/-- Both get to COMMIT, in the same number of turns and in agreement, and are outside IDLE on the way. -/
theorem Twins.reach_commit (hc : c.wellFormed = true) (k : Nat) {s t : State} (h : Twins c s t)
    (hk : turnsLeft (decode s.cmdw) s.phase ≤ k) :
    ∃ n u v, n + 1 ≤ k ∧ runOn c n s = .next u ∧ runOn c n t = .next v ∧ u.phase = .commit ∧ Twins c u v
      ∧ s.log <+: u.log ∧ ∀ m ≤ n, BothRunning c m s t := by
  have hnow : BothRunning c 0 s t := ⟨s, t, rfl, rfl, h.running, h.rightRunning⟩
  induction k generalizing s t with
  | zero =>
    have hpos := turnsLeft_pos (h.leftInv.command.phaseReached.resolve_left h.running)
    omega
  | succ k ih =>
    by_cases hp : s.phase = .commit
    · exact ⟨0, s, t, by omega, rfl, rfl, hp, h, List.prefix_rfl, fun m hm => Nat.le_zero.1 hm ▸ hnow⟩
    · obtain ⟨s', t', hs, ht, h', hlog, hlt⟩ := h.step hc hp
      obtain ⟨n, u, v, hn, hu, hv, hcommit, htwins, hlog', hrun⟩ :=
        ih h' (by omega) ⟨s', t', rfl, rfl, h'.running, h'.rightRunning⟩
      refine ⟨n + 1, u, v, by omega, (runOn_succ hs).trans hu, (runOn_succ ht).trans hv, hcommit, htwins,
        hlog.trans hlog', fun m hm => ?_⟩
      cases m with
      | zero => exact hnow
      | succ m =>
        obtain ⟨x, y, hx, hy, hxi, hyi⟩ := hrun m (by omega)
        exact ⟨x, y, (runOn_succ hs).trans hx, (runOn_succ ht).trans hy, hxi, hyi⟩

/-- A run to a block in COMMIT, and one turn more. -/
theorem runOn_then_commit {n : Nat} (h : runOn c n s = .next u) (hs : u.script = []) (hp : u.phase = .commit) :
    runOn c (n + 1) s = .next (commit u) := by
  induction n generalizing s with
  | zero =>
    cases h
    rw [runOn_succ (stepOn_commit hs hp), runOn_zero]
  | succ n ih =>
    rw [runOn] at h
    cases hstep : stepOn c s with
    | next x =>
      rw [hstep] at h
      exact (runOn_succ hstep).trans (ih h)
    | fault | refused =>
      rw [hstep] at h
      cases h

/-! ### From the CMD write -/

/-- The block right after the host wrote `w` to CMD, for every word. -/
def acceptedWord (w : Word) (s : State) : State := respond .written (accept w (setScript [] s))

theorem runOn_acceptedWord (n : Nat) (w : Word) (hb : s.busy = false) :
    runOn c (n + 1) (withCmdWrite c w s) = runOn c n (acceptedWord w s) :=
  runOn_accept n w hb

theorem inv_acceptedWord (h : Inv c s) (hb : s.busy = false) (w : Word) : Inv c (acceptedWord w s) :=
  inv_respond (inv_accept (inv_setScript h []) hb w) _

theorem sameInputs_acceptedWord (w : Word) (s : State) : SameInputs s (acceptedWord w s) := by
  simp [SameInputs, acceptedWord]

/-- Idle blocks that agree on what a word's command reads are twins once the word is accepted. -/
theorem twins_acceptedWord {w : Word} (hs : Inv c s) (ht : Inv c t) (hsi : s.phase = .idle) (hti : t.phase = .idle)
    (ho : SameOperands c (decode w) s t) : Twins c (acceptedWord w s) (acceptedWord w t) where
  leftInv := inv_acceptedWord hs (hs.not_busy hsi) w
  rightInv := inv_acceptedWord ht (ht.not_busy hti) w
  leftAlone := rfl
  rightAlone := rfl
  running := by simp [acceptedWord]
  work := by
    obtain ⟨-, hsk, hse⟩ := hs.hidden.idleClear hsi
    obtain ⟨-, htk, hte⟩ := ht.hidden.idleClear hti
    obtain ⟨hss, hsl, hst⟩ := hs.hidden.unstaged (by simp [hsi]) (by simp [hsi])
    obtain ⟨hts, htl, htt⟩ := ht.hidden.unstaged (by simp [hti]) (by simp [hti])
    exact ⟨⟨rfl, rfl, rfl⟩, ⟨htk.trans hsk.symm, hte.trans hse.symm⟩, hts.trans hss.symm, htl.trans hsl.symm,
      htt.trans hst.symm⟩
  operands := ho.of_sameInputs (sameInputs_acceptedWord w s) (sameInputs_acceptedWord w t)

theorem commit_done (s : State) : (commit s).done = true := by rw [commit_frame]

theorem commit_log (s : State) : (commit s).log = s.log ++ [.commit s.result.1 s.result.2] := by rw [commit_frame]

end

/-- Settles O47: after the CMD write the two blocks are twins, and twins commit the same at the same turn. -/
theorem outputsDependOnOperandsOnly : Obligations.OutputsDependOnOperandsOnly := by
  intro c s t w hc hs ht hsi hti ho
  have htw := twins_acceptedWord hs ht hsi hti ho
  have hrunS (n : Nat) := runOn_acceptedWord (c := c) n w (hs.not_busy hsi)
  have hrunT (n : Nat) := runOn_acceptedWord (c := c) n w (ht.not_busy hti)
  obtain ⟨n, u, v, hn, hu, hv, hp, huv, -, hrunning⟩ := htw.reach_commit hc 6 (turnsLeft_le _ _)
  obtain ⟨⟨hphase, -, -⟩, -, -⟩ := id huv.work
  have hpos : n ≠ 0 := by
    rintro rfl
    rw [← Host.Outcome.next.inj hu] at hp
    cases hp
  refine ⟨n + 2, commit u, commit v, by omega, by omega, ?_, ?_, commit_phase u, commit_phase v, commit_done u,
    commit_done v, ?_, fun m hm hmn => ?_⟩
  · rw [hrunS, runOn_then_commit hu huv.leftAlone hp]
  · rw [hrunT, runOn_then_commit hv huv.rightAlone (hphase.trans hp)]
  · exact sameOutputs_commit huv.work (huv.leftInv.hidden.busyNoOutput (huv.leftInv.busy huv.running))
      (huv.rightInv.hidden.busyNoOutput (huv.rightInv.busy huv.rightRunning))
  · obtain ⟨k, rfl⟩ := Nat.exists_eq_succ_of_ne_zero hm.ne'
    rw [hrunS, hrunT]
    exact hrunning k (by omega)

/-- Settles O52: the block as its own twin. -/
theorem everyCommandCommitsInSixSteps : Obligations.EveryCommandCommitsInSixSteps := by
  intro s hinv hb hs
  have htw := Twins.refl hinv hs (hinv.flags.busyIffRunning.1 hb)
  obtain ⟨n, u, v, hn, hu, -, hp, huv, ⟨evs, hevs⟩, -⟩ :=
    htw.reach_commit Config.hw_wellFormed 6 (turnsLeft_le _ _)
  refine ⟨n + 1, commit u, hn, ?_, commit_phase u, commit_done u, evs, u.result.1, u.result.2, ?_, ?_, ?_⟩
  · exact (core_run_eq_runOn (n + 1) s).trans (runOn_then_commit hu huv.leftAlone hp)
  · rw [commit_log, ← hevs]
  · exact commit_err u
  · rw [commit_frame]

end Sys2Proof.Machine

/-! The statements about whole commands (40_pad.md R154, 41_keysched.md R171, 42_encrypt.md R190, 43_decrypt.md R210,
60_exceptions.md R272 and R275): every run from the CMD write to the commit, success or failure. First what any commit
leaves, then the runs, then what each logged and staged. -/

namespace Sys2Proof.Machine

section
variable {c : Config} {s u : State} {l : List Event}

/-! ### What a commit leaves -/

/-- The bytes of OUT_MEM after a successful commit over an empty OUT_MEM. -/
theorem outByte_commit (hok : u.result.1 = .ok) (hzero : outputsZero u) (a : Nat) :
    outByte (commit u) a = if a < u.stageLen then stageByte u a else 0#8 := by
  rw [commit_ok hok, ← outByte_of_outputsZero hzero a]
  exact outByte_publish u a

/-- Read back over its length, OUT_MEM is what was staged. -/
theorem outBytes_commit (hok : u.result.1 = .ok) :
    (List.range u.stageLen).map (outByte (commit u)) = stageBytes u u.stageLen := by
  rw [stageBytes_eq]
  exact List.map_congr_left fun a ha => outByte_commit_of_ok hok (List.mem_range.1 ha)

/-- The state in which a command's run ends, up to what it staged: the code and LAST_OPC, the operands and the log. -/
def Ends (s : State) (e : Err) (cause : Cause) (opcode : BitVec 4) (l : List Event) (t : State) : Prop :=
  CommittedWith e cause opcode t ∧ SameInputs s t ∧ t.log = s.log ++ l ++ [.commit e cause]

theorem ends_commit {e : Err} {cause : Cause} (hres : u.result = (e, cause)) (hin : SameInputs s u)
    (hlog : u.log = s.log ++ l) : Ends s e cause u.lastOpc l (commit u) := by
  have hcommitted := committedWith_commit u
  rw [hres] at hcommitted
  refine ⟨hcommitted, hin.trans sameInputs_commit, ?_⟩
  rw [commit_log, hlog, hres]

/-- A failure commits its code over outputs that are zero. -/
theorem ends_commit_fail {e : Err} (cause : Cause) (he : e ≠ .ok) (hin : SameInputs s u) (hzero : outputsZero u)
    (hlog : u.log = s.log ++ l) :
    Ends s e cause u.lastOpc l (commit (fail e cause u)) ∧ outputsZero (commit (fail e cause u)) :=
  ⟨ends_commit (u := fail e cause u) rfl hin hlog, outputsZero_commit_of_failed (s := fail e cause u) he hzero⟩

/-! ### CHECK refuses -/

/-- The cause CHECK reports for lengths that do not fit (60_exceptions.md R275). -/
def lengthCause (c : Config) (s : State) : Cause :=
  if c.aadCap < s.aadLen.toNat then .aadTooLong else if c.dataCap < s.dataLen.toNat then .dataTooLong else .padTooLong

theorem checkLengths_of_refused {ok : State → State}
    (h : c.aadCap < aadLength s ∨ c.dataCap < dataLength s ∨ ok s = fail .lengthError .padTooLong s) :
    checkLengths c ok s = fail .lengthError (lengthCause c s) s := by
  unfold checkLengths lengthCause
  rw [aadLength, dataLength] at *
  split_ifs with haad hdata
  · rfl
  · rfl
  · exact (h.resolve_left haad).resolve_left hdata

/-- CHECK of the three commands that look at the lengths. -/
theorem execOn_check_refused {i : Instr} (hp : s.phase = .check) (hi : i ≠ .deriveKey)
    (h : c.aadCap < aadLength s ∨ c.dataCap < dataLength s ∨ (i = .pad ∧ c.outCap < padLength s)) :
    execOn c i s = .next (fail .lengthError (lengthCause c s) s) := by
  cases i with
  | encrypt =>
    rw [execOn_check (.inl ⟨rfl, rfl⟩) hp, checkLengths_of_refused (h.imp_right (Or.imp_right fun h => nomatch h.1))]
  | decrypt =>
    rw [execOn_check (.inr ⟨rfl, rfl⟩) hp, checkLengths_of_refused (h.imp_right (Or.imp_right fun h => nomatch h.1))]
  | pad =>
    have hpad (h : c.outCap < padLength s) : checkPadLength c s = fail .lengthError .padTooLong s := if_pos h
    rw [PhaseAction.checkPad.execOn hp, checkLengths_of_refused (h.imp_right (Or.imp_right fun h => hpad h.2))]
  | deriveKey => exact absurd rfl hi

theorem runOn_refused {i : Instr} (hb : s.busy = false) (hi : i ≠ .deriveKey)
    (h : c.aadCap < aadLength s ∨ c.dataCap < dataLength s ∨ (i = .pad ∧ c.outCap < padLength s)) :
    runOn c 3 (withCmdWrite c (encode i) s) =
      .next (commit (fail .lengthError (lengthCause c s) (accepted c i s))) := by
  have hcheck := execOn_check_refused (c := c) (s := accepted c i s) rfl hi h
  have hfail : RunsAlone i (fail .lengthError (lengthCause c s) (accepted c i s)) := ⟨rfl, decode_encode i⟩
  rw [runOn_accept 2 (encode i) hb]
  exact ((runsAlone_accepted c i s).turn (p := .check) rfl (by decide) hcheck 1).trans (hfail.runOn_commit rfl 0)

theorem sameInputs_accepted (c : Config) (i : Instr) (s : State) : SameInputs s (accepted c i s) :=
  sameInputs_acceptedWord (encode i) s

theorem runOn_illegalWord {w : Word} {why : Illegal} (hb : s.busy = false) (hd : decode w = .illegal why) :
    runOn c 3 (withCmdWrite c w s) =
      .next (commit (fail .illegalCommand (illegalCause why) (acceptedWord w s))) := by
  have hcheck : stepOn c (acceptedWord w s) = .next (fail .illegalCommand (illegalCause why) (acceptedWord w s)) :=
    (stepOn_illegal (s := acceptedWord w s) rfl (by simp [acceptedWord]) hd).trans (illegalStep_check why rfl)
  rw [runOn_acceptedWord 2 w hb, runOn_succ hcheck, runOn_succ (stepOn_commit rfl rfl), runOn_zero]

end

/-- Settles O43: CHECK enters the error before anything is logged or staged. -/
theorem lengthErrorsCommitInOrder : Obligations.LengthErrorsCommitInOrder := by
  intro c s i _ hinv hidle hi hlong
  have hrun := runOn_refused (c := c) (hinv.not_busy hidle) hi hlong
  obtain ⟨⟨hdone, hin, hlog⟩, hzero⟩ := ends_commit_fail (u := accepted c i s) (lengthCause c s) (e := .lengthError)
    (by decide) (sameInputs_accepted c i s) ⟨rfl, rfl, rfl⟩ (accept_log _ _)
  rw [List.append_assoc] at hlog
  exact ⟨_, lengthCause c s, hrun, rfl, hdone, hin, hzero, hlog⟩

/-- Settles O44: the accept looks at no bit of the word, and CHECK finds it illegal. -/
theorem illegalWordsCommitIllegalCommand : Obligations.IllegalWordsCommitIllegalCommand := by
  intro c s w _ hinv hidle hw
  have hb := hinv.not_busy hidle
  obtain ⟨why, hd, hcause⟩ : ∃ why, decode w = .illegal why ∧
      illegalCause why = if w.toNat / 16 ≠ 0 then Cause.reservedBits else Cause.badOpcode := by
    rcases decode_cases w with ⟨hrsv, hd⟩ | ⟨hrsv, -, hd⟩ | ⟨i, rfl, -⟩
    · exact ⟨_, hd, (if_pos hrsv).symm⟩
    · exact ⟨_, hd, (if_neg (not_not.2 hrsv)).symm⟩
    · have hop := encode_opcode_assigned i
      have hrsv := Nat.div_eq_of_lt (encode_toNat_lt i)
      omega
  obtain ⟨⟨hdone, hin, hlog⟩, hzero⟩ := ends_commit_fail (u := acceptedWord w s) (illegalCause why)
    (e := .illegalCommand) (by decide) (sameInputs_acceptedWord w s) ⟨rfl, rfl, rfl⟩ (accept_log _ _)
  rw [List.append_assoc] at hlog
  exact ⟨_, illegalCause why, runOn_illegalWord hb hd, hcause, hdone, hin, hzero, hlog, acceptedWord w s,
    runOn_acceptedWord 0 w hb, rfl, rfl, rfl, rfl⟩

section
variable {c : Config} {s : State}

/-! ### PAD -/

/-- PAD about to commit. -/
def padReady (c : Config) (s : State) : State := padOut c (goTo .padout (accepted c .pad s))

theorem sameInputs_padReady (c : Config) (s : State) : SameInputs s (padReady c s) :=
  (sameInputs_accepted c .pad s).trans (by simp [SameInputs, padReady, padOut])

theorem runOn_pad (hb : s.busy = false) (ha : aadLength s ≤ c.aadCap) (hd : dataLength s ≤ c.dataCap)
    (hpad : padLength s ≤ c.outCap) :
    runOn c 4 (withCmdWrite c (encode .pad) s) = .next (commit (padReady c s)) := by
  have haccepted := runsAlone_accepted c .pad s
  have hcheck : checkLengths c (checkPadLength c) (accepted c .pad s) = goTo .padout (accepted c .pad s) := by
    rw [checkLengths_of_le (s := accepted c .pad s) ha hd]
    exact if_neg hpad.not_gt
  have hready : RunsAlone .pad (padReady c s) := ⟨rfl, decode_encode .pad⟩
  calc runOn c 4 (withCmdWrite c (encode .pad) s)
    _ = runOn c 3 (accepted c .pad s) := runOn_accept 3 (encode .pad) hb
    _ = runOn c 2 (goTo .padout (accepted c .pad s)) := by
      rw [haccepted.turn (p := .check) rfl (by decide) (PhaseAction.checkPad.execOn rfl), hcheck]
    _ = runOn c 1 (padReady c s) :=
      (haccepted.of_goTo .padout).turn (goTo_phase _ _) (by decide) (execOn_pad_padout (goTo_phase _ _)) 1
    _ = .next (commit (padReady c s)) := hready.runOn_commit rfl 0

/-- PAD stages the padded message of the operands. -/
theorem stageBytes_padReady (c : Config) (s : State) :
    stageBytes (padReady c s) (padReady c s).stageLen = padMessage (aadOperand c s) (dataOperand c s) :=
  readBytes_writeBytes _ (padMessage (aadOperand c s) (dataOperand c s))

theorem padReady_stageLen (c : Config) (s : State) : (padReady c s).stageLen = padLength s :=
  padOut_stageLen c (goTo .padout (accepted c .pad s))

/-! ### DERIVE_KEY -/

/-- DERIVE_KEY about to commit. -/
def deriveKeyReady (c : Config) (s : State) : State :=
  deriveKeyStaged (keygen c (goTo .keygen (accepted c .deriveKey s)))

theorem sameInputs_deriveKeyReady (c : Config) (s : State) : SameInputs s (deriveKeyReady c s) :=
  (sameInputs_accepted c .deriveKey s).trans (by simp [SameInputs, deriveKeyReady, deriveKeyStaged])

theorem runOn_deriveKey (hb : s.busy = false) :
    runOn c 4 (withCmdWrite c (encode .deriveKey) s) = .next (commit (deriveKeyReady c s)) := by
  have haccepted := runsAlone_accepted c .deriveKey s
  have hready : RunsAlone .deriveKey (deriveKeyReady c s) := ⟨rfl, decode_encode .deriveKey⟩
  calc runOn c 4 (withCmdWrite c (encode .deriveKey) s)
    _ = runOn c 3 (accepted c .deriveKey s) := runOn_accept 3 (encode .deriveKey) hb
    _ = runOn c 2 (goTo .keygen (accepted c .deriveKey s)) :=
      haccepted.turn (p := .check) rfl (by decide) (PhaseAction.checkDeriveKey.execOn rfl) 2
    _ = runOn c 1 (deriveKeyReady c s) :=
      (haccepted.of_goTo .keygen).turn (goTo_phase _ _) (by decide) (execOn_deriveKey_keygen (goTo_phase _ _)) 1
    _ = .next (commit (deriveKeyReady c s)) := hready.runOn_commit rfl 0

/-! ### What ENCRYPT and DECRYPT log -/

theorem keyed_log (c : Config) (i : Instr) (p : Phase) (s : State) :
    (keyed c i p s).log = s.log ++ [.accept (encode i), .block s.key 0#64 s.nonce] := by
  simp [keyed, accepted, withCmdWrite]

theorem outputsZero_keyed (c : Config) (i : Instr) (p : Phase) (s : State) : outputsZero (keyed c i p s) :=
  ⟨rfl, rfl, rfl⟩

/-- CIPHER logs the operands, whatever the outcome. -/
theorem log_apply_of_sameInputs {u : State} (h : SameInputs s u) (o : ApplyOutcome) :
    (logEvent (.apply u.key u.nonce 1#64 (dataOperand c u) o) u).log =
      u.log ++ [.apply s.key s.nonce 1#64 (dataOperand c s) o] := by
  have hd := dataOperand_of_sameInputs (c := c) h
  obtain ⟨⟨hkey, hnonce, -⟩, -⟩ := h
  rw [logEvent_log, hkey, hnonce, hd]

/-- The ciphertext that ENCRYPT signs is what it commits. -/
theorem ciphertext_encrypted {r : List Byte} (hr : scApply c s.key s.nonce 1#64 (dataOperand c s) = some r) :
    stageBytes (goTo .mac (applied c r (keyed c .encrypt .cipher s))) s.dataLen.toNat =
      (List.range s.dataLen.toNat).map (outByte (commit (encrypted c r s))) := by
  obtain ⟨hresult, -, hlen⟩ := encrypted_fields c r s
  have hbytes := outBytes_commit (u := encrypted c r s) (by rw [hresult])
  rw [hlen, length_scApply_dataOperand hr] at hbytes
  exact hbytes.symm

theorem encryptMac_log (c : Config) (u : State) : (encryptMac c u).log =
    u.log ++ [.mac (padMessage (aadOperand c u) (stageBytes u (dataLength u))) u.mackey] := rfl

theorem log_encrypted {r : List Byte} (hr : scApply c s.key s.nonce 1#64 (dataOperand c s) = some r) :
    (encrypted c r s).log = s.log ++ [.accept (encode .encrypt), .block s.key 0#64 s.nonce,
      .apply s.key s.nonce 1#64 (dataOperand c s) .ok,
      .mac (padMessage (aadOperand c s) ((List.range s.dataLen.toNat).map (outByte (commit (encrypted c r s)))))
        (macKeyOf c s)] := by
  have hin : SameInputs s (goTo .mac (applied c r (keyed c .encrypt .cipher s))) :=
    (sameInputs_keyed c .encrypt .cipher s).trans (by simp [SameInputs, applied])
  have hkey : (goTo .mac (applied c r (keyed c .encrypt .cipher s))).mackey = macKeyOf c s := by simp [applied]
  have hlog : (goTo .mac (applied c r (keyed c .encrypt .cipher s))).log =
      (keyed c .encrypt .cipher s).log ++ [.apply s.key s.nonce 1#64 (dataOperand c s) .ok] :=
    log_apply_of_sameInputs (sameInputs_keyed c .encrypt .cipher s) .ok
  obtain ⟨⟨-, -, -, -, hlen⟩, -⟩ := id hin
  rw [← ciphertext_encrypted hr, encrypted, encryptMac_log, hlog, hkey, aadOperand_of_sameInputs hin, dataLength, hlen,
    keyed_log]
  simp

/-- DECRYPT up to COMPARE logs the key's block and the signature of the host's ciphertext. -/
theorem log_decryptMac_keyed : (decryptMac c (keyed c .decrypt .mac s)).log = s.log ++ [.accept (encode .decrypt),
    .block s.key 0#64 s.nonce, .mac (padMessage (aadOperand c s) (dataOperand c s)) (macKeyOf c s)] := by
  have hin := sameInputs_keyed c .decrypt .mac s
  simp [decryptMac, macLogged, macMessage, aadOperand_of_sameInputs hin, dataOperand_of_sameInputs hin, keyed_log]

/-! ### The other ends of ENCRYPT and DECRYPT -/

theorem outLen_encrypted {r : List Byte} (hr : scApply c s.key s.nonce 1#64 (dataOperand c s) = some r) :
    (commit (encrypted c r s)).outLen = s.dataLen := by
  obtain ⟨hresult, -, hlen⟩ := encrypted_fields c r s
  rw [commit_outLen_of_ok (by rw [hresult]), hlen, length_scApply_dataOperand hr, BitVec.ofNat_toNat,
    BitVec.setWidth_eq]

/-- OUT_MEM after a successful CIPHER: the transformed data, and zero beyond. -/
theorem outByte_commit_transformed {r : List Byte} (hr : scApply c s.key s.nonce 1#64 (dataOperand c s) = some r)
    {u v : State} (hok : v.result.1 = .ok) (hzero : outputsZero v) (hstage : v.stage = (applied c r u).stage)
    (hlen : v.stageLen = r.length) (a : Nat) :
    outByte (commit v) a = if a < s.dataLen.toNat then inByte c s a ^^^ streamByte c s a else 0#8 := by
  split_ifs with ha
  · exact outByte_commit_applied hr hok hstage hlen ha
  · rw [outByte_commit hok hzero, hlen, length_scApply_dataOperand hr, if_neg ha]

/-- CIPHER after the apply port refused. -/
def applyRefused (c : Config) (e : Err) (u : State) : State :=
  fail e .streamLimit (logEvent (.apply u.key u.nonce 1#64 (dataOperand c u) .streamCipherError) u)

/-- From CIPHER beyond the stream limit to the commit. -/
theorem RunsAlone.runOn_limit {i : Instr} {e : Err} {next : State → State} {u : State} (h : RunsAlone i u)
    (hp : u.phase = .cipher) (he : execOn c i u = .next (cipher c e next u)) (hin : SameInputs s u)
    (hlong : 64 * c.scMaxCounter < s.dataLen.toNat) : runOn c 2 u = .next (commit (applyRefused c e u)) := by
  have hrefused : RunsAlone i (applyRefused c e u) := ⟨h.script, h.word⟩
  obtain ⟨⟨-, -, -, -, hlen⟩, -⟩ := hin
  rw [← hlen] at hlong
  rw [cipher_of_lt _ _ hlong] at he
  exact (h.turn hp (by decide) he 1).trans (hrefused.runOn_commit rfl 0)

/-- What the stream limit leaves. -/
theorem ends_limit {e : Err} {u : State} {l : List Event} (he : e ≠ .ok) (hin : SameInputs s u) (hzero : outputsZero u)
    (hlog : u.log = s.log ++ l) :
    Ends s e .streamLimit u.lastOpc (l ++ [.apply s.key s.nonce 1#64 (dataOperand c s) .streamCipherError])
      (commit (applyRefused c e u)) ∧ outputsZero (commit (applyRefused c e u)) := by
  have hlog' := log_apply_of_sameInputs (c := c) hin .streamCipherError
  rw [hlog, List.append_assoc] at hlog'
  exact ends_commit_fail .streamLimit he (u := logEvent _ u) hin hzero hlog'

/-- DECRYPT from the CMD write through COMPARE. -/
theorem runOn_compare (n : Nat) (hb : s.busy = false) (ha : aadLength s ≤ c.aadCap) (hd : dataLength s ≤ c.dataCap) :
    runOn c (n + 5) (withCmdWrite c (encode .decrypt) s) =
      runOn c n (compareTags (decryptMac c (keyed c .decrypt .mac s))) := by
  have hkeyed := runsAlone_keyed c .decrypt .mac s
  have hcompare : RunsAlone .decrypt (decryptMac c (keyed c .decrypt .mac s)) := ⟨hkeyed.script, hkeyed.word⟩
  rw [runOn_keyed (n + 2) (.inr ⟨rfl, rfl⟩) hb ha hd,
    hkeyed.turn (keyed_phase _ _ _ _) (by decide) (execOn_decrypt_mac (keyed_phase _ _ _ _)),
    hcompare.turn (goTo_phase _ _) (by decide) (execOn_decrypt_compare (goTo_phase _ _))]

theorem sameInputs_decryptMac_keyed (c : Config) (s : State) :
    SameInputs s (decryptMac c (keyed c .decrypt .mac s)) :=
  (sameInputs_keyed c .decrypt .mac s).trans (by simp [SameInputs, decryptMac, macLogged])

theorem compareTags_keyed_of_eq (h : s.tagIn = tagOver c s (dataOperand c s)) :
    compareTags (decryptMac c (keyed c .decrypt .mac s)) = verified c s := by
  obtain ⟨⟨-, -, hin, -⟩, -⟩ := sameInputs_decryptMac_keyed c s
  rw [compareTags_of_eq (expTag_decryptMac_keyed.trans (h.symm.trans hin.symm)), verified]

theorem compareTags_keyed_of_ne (h : s.tagIn ≠ tagOver c s (dataOperand c s)) :
    compareTags (decryptMac c (keyed c .decrypt .mac s)) =
      fail .authenticationFailure .tagMismatch (decryptMac c (keyed c .decrypt .mac s)) := by
  obtain ⟨⟨-, -, hin, -⟩, -⟩ := sameInputs_decryptMac_keyed c s
  exact compareTags_of_ne fun heq => h (hin.symm.trans (heq.symm.trans expTag_decryptMac_keyed))

theorem log_verified (c : Config) (s : State) : (verified c s).log = s.log ++ [.accept (encode .decrypt),
    .block s.key 0#64 s.nonce, .mac (padMessage (aadOperand c s) (dataOperand c s)) (macKeyOf c s)] := by
  rw [verified, goTo_log, log_decryptMac_keyed]

theorem log_decrypted (c : Config) (r : List Byte) (s : State) : (decrypted c r s).log =
    s.log ++ [.accept (encode .decrypt), .block s.key 0#64 s.nonce,
      .mac (padMessage (aadOperand c s) (dataOperand c s)) (macKeyOf c s),
      .apply s.key s.nonce 1#64 (dataOperand c s) .ok] := by
  have hlog : (decrypted c r s).log = (verified c s).log ++ [.apply s.key s.nonce 1#64 (dataOperand c s) .ok] :=
    log_apply_of_sameInputs (sameInputs_verified c s) .ok
  rw [hlog, log_verified, List.append_assoc]
  rfl

theorem sameInputs_encrypted (c : Config) (r : List Byte) (s : State) : SameInputs s (encrypted c r s) :=
  (sameInputs_keyed c .encrypt .cipher s).trans (by simp [SameInputs, encrypted, encryptMac, macLogged, applied])

theorem sameInputs_decrypted (c : Config) (r : List Byte) (s : State) : SameInputs s (decrypted c r s) :=
  (sameInputs_verified c s).trans (by simp [SameInputs, decrypted, decryptStaged, applied])

end

/-- Settles O37: within every limit the run is `runOn_encrypt`, and the tag is over the ciphertext committed. -/
theorem encryptCommitsCiphertextAndTag : Obligations.EncryptCommitsCiphertextAndTag := by
  intro c s _ hinv hidle ha hd hfits
  obtain ⟨r, hr⟩ := exists_scApply_of_le hfits
  obtain ⟨hresult, hstage, hlen⟩ := encrypted_fields c r s
  obtain ⟨hdone, hin, hlog⟩ := ends_commit hresult (sameInputs_encrypted c r s) (log_encrypted hr)
  have htag := tagOut_encrypted hr
  rw [tagOver, aadOperand_eq] at htag
  rw [aadOperand_eq, dataOperand_eq, List.append_assoc] at hlog
  exact ⟨_, runOn_encrypt (hinv.not_busy hidle) ha hd hr, hdone, hin, outLen_encrypted hr,
    outByte_commit_transformed hr (by rw [hresult]) ⟨rfl, rfl, rfl⟩ hstage hlen, htag, hlog⟩

/-- Settles O38: with the right tag the run is `runOn_decrypt`, and the signature comes before the apply transaction. -/
theorem decryptCommitsPlaintext : Obligations.DecryptCommitsPlaintext := by
  intro c s _ hinv hidle ha hd hfits htag
  rw [← aadOperand_eq, ← dataOperand_eq] at htag
  obtain ⟨r, hr⟩ := exists_scApply_of_le hfits
  obtain ⟨hresult, hstage, hlen⟩ := decrypted_fields c r s
  obtain ⟨hdone, hin, hlog⟩ := ends_commit hresult (sameInputs_decrypted c r s) (log_decrypted c r s)
  rw [aadOperand_eq, dataOperand_eq, List.append_assoc] at hlog
  have htagOut : (commit (decrypted c r s)).tagOut = (decrypted c r s).stageTag := commit_tagOut_of_ok (by rw [hresult])
  exact ⟨_, runOn_decrypt (hinv.not_busy hidle) ha hd htag hr, hdone, hin, outLen_decrypted hr,
    htagOut, outByte_commit_transformed hr (by rw [hresult]) ⟨rfl, rfl, rfl⟩ hstage hlen,
    hlog⟩

/-- Settles O39: COMPARE sends DECRYPT to its commit before CIPHER, so the length is never tested against the stream
limit. -/
theorem decryptWithWrongTagReleasesNothing : Obligations.DecryptWithWrongTagReleasesNothing := by
  intro c s _ hinv hidle ha hd htag
  rw [← aadOperand_eq, ← dataOperand_eq] at htag
  have hmismatch : RunsAlone .decrypt
      (fail .authenticationFailure .tagMismatch (decryptMac c (keyed c .decrypt .mac s))) :=
    ⟨rfl, decode_encode .decrypt⟩
  have hrun := (runOn_compare 1 (hinv.not_busy hidle) ha hd).trans
    ((congrArg (runOn c 1) (compareTags_keyed_of_ne htag)).trans (hmismatch.runOn_commit rfl 0))
  obtain ⟨⟨hdone, hin, hlog⟩, hzero⟩ := ends_commit_fail .tagMismatch (e := .authenticationFailure) (by decide)
    (sameInputs_decryptMac_keyed c s) ⟨rfl, rfl, rfl⟩ log_decryptMac_keyed
  rw [aadOperand_eq, dataOperand_eq, List.append_assoc] at hlog
  exact ⟨_, hrun, hdone, hin, hzero, hlog⟩

/-- Settles O40: CIPHER of either command enters the error with nothing staged. -/
theorem streamLimitFailsWithoutOutput : Obligations.StreamLimitFailsWithoutOutput := by
  intro c s _ hinv hidle ha hd hlong
  have hb := hinv.not_busy hidle
  refine ⟨?_, fun htag => ?_⟩
  · have hrun := (runOn_keyed 2 (.inl ⟨rfl, rfl⟩) hb ha hd).trans ((runsAlone_keyed c .encrypt .cipher s).runOn_limit
      (keyed_phase _ _ _ _) (execOn_encrypt_cipher (keyed_phase _ _ _ _)) (sameInputs_keyed _ _ _ _) hlong)
    obtain ⟨⟨hdone, hin, hlog⟩, hzero⟩ := ends_limit (c := c) (e := .encryptionFailure) (by decide)
      (sameInputs_keyed c .encrypt .cipher s) (outputsZero_keyed _ _ _ _) (keyed_log _ _ _ _)
    rw [dataOperand_eq, List.append_assoc] at hlog
    exact ⟨_, hrun, hdone, hin, hzero, hlog⟩
  · rw [← aadOperand_eq, ← dataOperand_eq] at htag
    have hverified : RunsAlone .decrypt (verified c s) := ⟨rfl, decode_encode .decrypt⟩
    have hrun := (runOn_compare 2 hb ha hd).trans ((congrArg (runOn c 2) (compareTags_keyed_of_eq htag)).trans
      (hverified.runOn_limit (goTo_phase _ _) (execOn_decrypt_cipher (goTo_phase _ _)) (sameInputs_verified c s) hlong))
    obtain ⟨⟨hdone, hin, hlog⟩, hzero⟩ := ends_limit (c := c) (u := verified c s) (e := .decryptionFailure) (by decide)
      (sameInputs_verified c s) ⟨rfl, rfl, rfl⟩ (log_verified c s)
    rw [aadOperand_eq, dataOperand_eq, List.append_assoc] at hlog
    exact ⟨_, hrun, hdone, hin, hzero, hlog⟩

/-- Settles O41: PADOUT stages the padded message, which fits OUT_LEN because it fits OUT_CAP. -/
theorem padCommitsThePaddedMessage : Obligations.PadCommitsThePaddedMessage := by
  intro c s hc hinv hidle ha hd hpad
  obtain ⟨-, -, ⟨-, -, hcap⟩, -⟩ := (Config.wellFormed_iff c).1 hc
  have hresult : (padReady c s).result = (.ok, .none) := rfl
  have hlen : (commit (padReady c s)).outLen.toNat = padLength s := by
    have hfit : padLength s ≤ c.outCap := hpad
    rw [commit_outLen_of_ok rfl, padReady_stageLen, BitVec.toNat_ofNat, Nat.mod_eq_of_lt (by omega)]
  have htag : (commit (padReady c s)).tagOut = (padReady c s).stageTag := commit_tagOut_of_ok rfl
  obtain ⟨hdone, hin, hlog⟩ := ends_commit hresult (sameInputs_padReady c s) (accept_log _ _)
  rw [List.append_assoc] at hlog
  refine ⟨_, runOn_pad (hinv.not_busy hidle) ha hd hpad, hdone, hin, hlen, htag, ?_, fun a hle => ?_, hlog⟩
  · rw [hlen, ← padReady_stageLen c s, outBytes_commit rfl, stageBytes_padReady, aadOperand_eq, dataOperand_eq]
  · rw [outByte_commit rfl ⟨rfl, rfl, rfl⟩, padReady_stageLen, ← hlen, if_neg hle.not_gt]

/-- Settles O42: CHECK of DERIVE_KEY looks at no length, and KEYGEN stages the key it derives. -/
theorem deriveKeyCommitsTheMacKey : Obligations.DeriveKeyCommitsTheMacKey := by
  intro c s _ hinv hidle
  have hresult : (deriveKeyReady c s).result = (.ok, .none) := rfl
  have hlen : (deriveKeyReady c s).stageLen = 32 := length_bytesOf _ 32
  obtain ⟨hdone, hin, hlog⟩ := ends_commit (l := [.accept (encode .deriveKey), .block s.key 0#64 s.nonce]) hresult
    (sameInputs_deriveKeyReady c s) (List.append_assoc _ _ _)
  have htag : (commit (deriveKeyReady c s)).tagOut = (deriveKeyReady c s).stageTag := commit_tagOut_of_ok rfl
  rw [List.append_assoc] at hlog
  refine ⟨_, runOn_deriveKey (hinv.not_busy hidle), hdone, hin, ?_, htag, fun a => ?_, hlog⟩
  · rw [commit_outLen_of_ok rfl, hlen]
  · rw [outByte_commit rfl ⟨rfl, rfl, rfl⟩, hlen, deriveKeyReady, stageByte_deriveKeyStaged]
    split_ifs
    · rfl
    · rfl

end Sys2Proof.Machine
